-- ==== Sys2Proof/Word.lean ====
section
/-!
DEFINITION. The two word types of the block. The program store is made of 32-bit descriptor words
(20_memory.md R80, 30_encoding.md R100), and a program image holds each of them as four bytes
(20_memory.md R83). Register numbers, queue entries, counters and tags are no words: the spec makes
them unbounded naturals (00_scope.md R18).
-/
namespace Sys2Proof

/-- One byte of a program image (20_memory.md R83). -/
abbrev Byte := BitVec 8

/-- One instruction descriptor word (30_encoding.md R100). -/
abbrev Word := BitVec 32

end Sys2Proof
end

