-- ==== Sys2Proof/Config.lean ====
section
/-!
DEFINITION. The configuration of the block: the read-only bank of construction parameters of
00_scope.md R10 to R15 and 10_state.md R52. No numeric literal of the spec is fixed here: the
station list and the latencies are fields with the spec's defaults (R14).
-/
namespace Sys2Proof

/-- An operation kind, which is also a reservation-station type (R2, R12, R160). -/
inductive Kind where
  | alu
  | load
  | store
deriving DecidableEq, Repr

/-- `ISSUE_POLICY` (R15, R234, R235). -/
inductive IssuePolicy where
  | stationOrder
  | oldestFirst
deriving DecidableEq, Repr

/-- `WATCHDOG_MODE` (R15, R137). `literalRule` is the spec's LITERAL. -/
inductive WatchdogMode where
  | latencyAware
  | literalRule
deriving DecidableEq, Repr

/-- One element of `RS_CONFIG`: the static name and type of a station (R12, R44). -/
structure StationSpec where
  name : String
  type : Kind
deriving DecidableEq, Repr

/-- The default `RS_CONFIG` of R12, in its order. -/
def defaultStations : List StationSpec :=
  [⟨"ALU0", .alu⟩, ⟨"ALU1", .alu⟩, ⟨"LOAD0", .load⟩, ⟨"STORE0", .store⟩]

/-- The record of 10_state.md R52. The five fields without a default are those the spec leaves
OPEN (R10). The others carry the spec's defaults (R12, R13, R15). -/
structure Config where
  /-- `A`, the number of architectural registers. -/
  numArch : Nat
  /-- `P`, the number of all physical registers (R11). -/
  numPhys : Nat
  /-- `ROB_SIZE`. -/
  robSize : Nat
  /-- `W`, the most instructions each stage moves per cycle. -/
  width : Nat
  /-- `LSQ_SIZE`, accepted and read by no rule (R91). -/
  lsqSize : Nat
  /-- `RS_CONFIG`, in station-list order. -/
  stations : List StationSpec := defaultStations
  /-- `LAT(ALU)`. -/
  latAlu : Nat := 1
  /-- `LAT(LOAD)`. -/
  latLoad : Nat := 2
  /-- `LAT(STORE)`. -/
  latStore : Nat := 2
  /-- `CAP_FQ`. -/
  capFQ : Nat := width
  /-- `CAP_DQ`. -/
  capDQ : Nat := width
  /-- `CAP_XQ`. -/
  capXQ : Nat := width
  /-- `CAP_CQ`. -/
  capCQ : Nat := width
  /-- `ISSUE_POLICY`. -/
  issuePolicy : IssuePolicy := .stationOrder
  /-- `WATCHDOG_MODE`. -/
  watchdogMode : WatchdogMode := .latencyAware
  /-- `FIRST_CYCLE`. -/
  firstCycle : Nat := 1
deriving DecidableEq, Repr

/-- `LAT(type)` (R13). -/
def Config.lat (c : Config) : Kind → Nat
  | .alu => c.latAlu
  | .load => c.latLoad
  | .store => c.latStore

/-- The legal values of R10 and R15, as 10_state.md R52 lists them. A station list of any length, the
empty one too, is legal (R17). -/
def Config.legal (c : Config) : Bool :=
  decide (1 ≤ c.numArch) && decide (c.numArch ≤ 256) && decide (c.numArch ≤ c.numPhys)
    && decide (1 ≤ c.robSize) && decide (1 ≤ c.width)
    && decide (1 ≤ c.capFQ) && decide (1 ≤ c.capDQ) && decide (1 ≤ c.capXQ) && decide (1 ≤ c.capCQ)

/-- The configuration `State.reset` is built with. DESIGN CHOICE (notes/assumptions/1.md), unsafe:
the spec leaves A, P, ROB_SIZE, W and LSQ_SIZE open. A is the greatest legal value, so that every
register field of a descriptor names a register. Statements quantify over the configuration and rest
on none of these numbers. -/
def Config.initial : Config :=
  { numArch := 256, numPhys := 512, robSize := 4, width := 2, lsqSize := 0 }

end Sys2Proof
end

