-- ==== Sys2Proof/Syntax.lean ====
section
/-!
DEFINITION. The instructions: one constructor per row of spec/opcode_table.json. An instruction is the
tuple of 30_encoding.md R103 and R109: a kind, a destination, and up to two sources.
-/
namespace Sys2Proof

/-- An architectural operand: the index of a register, or `none` for the spec's NONE (R18, R102). -/
abbrev Operand := Option Nat

/-- The three instructions of the block (R106), operands in the order of the assembly syntax (R108):
destination, source 1, source 2. Every kind may have any operand present or absent (R104). -/
inductive Instr where
  /-- ALU (41_instruction_kinds.md R161). -/
  | alu (d s1 s2 : Operand)
  /-- LOAD (R162). -/
  | load (d s1 s2 : Operand)
  /-- STORE (R163). -/
  | store (d s1 s2 : Operand)
deriving DecidableEq, Repr

/-- The operation kind, which is the type of station the instruction needs (R160). -/
def Instr.kind : Instr → Kind
  | .alu _ _ _ => .alu
  | .load _ _ _ => .load
  | .store _ _ _ => .store

/-- The destination operand `dst` (R40). -/
def Instr.dst : Instr → Operand
  | .alu d _ _ => d
  | .load d _ _ => d
  | .store d _ _ => d

/-- The first source operand `src1` (R40). -/
def Instr.src1 : Instr → Operand
  | .alu _ a _ => a
  | .load _ a _ => a
  | .store _ a _ => a

/-- The second source operand `src2` (R40). -/
def Instr.src2 : Instr → Operand
  | .alu _ _ b => b
  | .load _ _ b => b
  | .store _ _ b => b

/-- The instruction of a given kind with given operands. -/
def Instr.ofKind : Kind → Operand → Operand → Operand → Instr
  | .alu, d, a, b => .alu d a b
  | .load, d, a, b => .load d a b
  | .store, d, a, b => .store d a b

end Sys2Proof
end

