-- ==== Sys2Proof/WellFormed.lean ====
section
/-!
DEFINITION. Which instructions a block with `A` architectural registers can name: every present operand
is an index below `A` (00_scope.md R18, 30_encoding.md R103 and R105). With a legal configuration
`A ≤ 256` (R10), so every such index fits its 8-bit field.
-/
namespace Sys2Proof

/-- A present operand names an architectural register; an absent one is always well formed. -/
def Operand.wellFormed (numArch : Nat) : Operand → Bool
  | none => true
  | some n => decide (n < numArch)

/-- The three operands are well formed; their presence does not depend on the kind (R104). -/
def Instr.wellFormed (numArch : Nat) (i : Instr) : Bool :=
  Operand.wellFormed numArch i.dst && Operand.wellFormed numArch i.src1
    && Operand.wellFormed numArch i.src2

end Sys2Proof
end

