-- ==== Sys2Proof/Decode.lean ====
section
/-!
DEFINITION. The descriptor word: its decoder, which refuses by name, and its encoder (30_encoding.md).
A word is decoded once, at program load (R103); the decode stage is a relay (R184). Descriptors in a
program image are little-endian (20_memory.md R83).
-/
namespace Sys2Proof

/-- Why R103 refuses a descriptor word. -/
inductive DecodeRefusal where
  /-- KIND = 11 (R101, R105). -/
  | reservedKind
  /-- RES is not 000 (R105). -/
  | reservedBits
  /-- A register field is nonzero while its valid bit is 0 (R105). -/
  | nonzeroAbsentField
  /-- A present register index is not below `A` (R105). -/
  | registerOutOfRange
deriving DecidableEq, Repr

/-- `KIND`, bits 1:0 (R100). -/
def kindField (w : Word) : BitVec 2 := w.extractLsb' 0 2

/-- `S1V`, bit 2 (R100). -/
def src1Valid (w : Word) : Bool := w.getLsbD 2

/-- `S2V`, bit 3 (R100). -/
def src2Valid (w : Word) : Bool := w.getLsbD 3

/-- `DV`, bit 4 (R100). -/
def dstValid (w : Word) : Bool := w.getLsbD 4

/-- `RES`, bits 7:5 (R100). -/
def reservedField (w : Word) : BitVec 3 := w.extractLsb' 5 3

/-- `S1`, bits 15:8 (R100). -/
def src1Field (w : Word) : BitVec 8 := w.extractLsb' 8 8

/-- `S2`, bits 23:16 (R100). -/
def src2Field (w : Word) : BitVec 8 := w.extractLsb' 16 8

/-- `D`, bits 31:24 (R100). -/
def dstField (w : Word) : BitVec 8 := w.extractLsb' 24 8

/-- One turn of the loop of R103 and the operand of R102: a valid field names register `zext(field)`,
an absent one must be zero and is NONE. -/
def decodeOperand (numArch : Nat) (valid : Bool) (field : BitVec 8) : Except DecodeRefusal Operand :=
  if valid then
    if numArch ≤ field.toNat then .error .registerOutOfRange else .ok (some field.toNat)
  else if field = 0#8 then .ok none
  else .error .nonzeroAbsentField

/-- The kind that a KIND field selects; `none` for the reserved code 11 (R101). -/
def decodeKind (k : BitVec 2) : Option Kind :=
  if k = 0#2 then some .alu
  else if k = 1#2 then some .load
  else if k = 2#2 then some .store
  else none

/-- `decode(w)` of R103, its checks in the spec's order: KIND, RES, then the fields S1, S2 and D. -/
def decode (numArch : Nat) (w : Word) : Except DecodeRefusal Instr :=
  match decodeKind (kindField w) with
  | none => .error .reservedKind
  | some k =>
    if reservedField w ≠ 0#3 then .error .reservedBits
    else
      match decodeOperand numArch (src1Valid w) (src1Field w) with
      | .error e => .error e
      | .ok a =>
        match decodeOperand numArch (src2Valid w) (src2Field w) with
        | .error e => .error e
        | .ok b =>
          match decodeOperand numArch (dstValid w) (dstField w) with
          | .error e => .error e
          | .ok d => .ok (Instr.ofKind k d a b)

/-- The KIND code of a kind (R101, R109). -/
def kindCode : Kind → Word
  | .alu => 0#32
  | .load => 1#32
  | .store => 2#32

/-- What an operand adds to the word (R109): its valid bit and its register number, shifted to its
field. -/
def operandBits (validBit fieldShift : Nat) : Operand → Word
  | none => 0#32
  | some n => (1#32 <<< validBit) ||| (BitVec.ofNat 32 n <<< fieldShift)

/-- The assembly of R109. -/
def encode (i : Instr) : Word :=
  kindCode i.kind ||| operandBits 2 8 i.src1 ||| operandBits 3 16 i.src2 ||| operandBits 4 24 i.dst

/-- The four bytes of a descriptor in a program image, lowest address first (R83). -/
def bytesOfWord (w : Word) : List Byte :=
  [w.extractLsb' 0 8, w.extractLsb' 8 8, w.extractLsb' 16 8, w.extractLsb' 24 8]

/-- The descriptor whose image bytes are `b0` at the lowest address to `b3` (R83). -/
def wordOfBytes (b0 b1 b2 b3 : Byte) : Word := b3 ++ b2 ++ b1 ++ b0

/-- The decoder on a program image: the instruction in its first four bytes and the bytes after it;
`none` where a byte is missing or the descriptor is refused. Every descriptor is four bytes (R107). -/
def decodeBytes (numArch : Nat) : List Byte → Option (Instr × List Byte)
  | b0 :: b1 :: b2 :: b3 :: rest =>
    match decode numArch (wordOfBytes b0 b1 b2 b3) with
    | .ok i => some (i, rest)
    | .error _ => none
  | _ => none

/-- The instruction the decoder reads from the low `nbits` bits of `w`, bit 0 the least significant bit
of the descriptor; the bits above are 0. The register file is the widest one, `A = 256`, the one of
`Config.initial` (notes/assumptions/1.md). -/
def decodeTableWord (nbits w : Nat) : Option Instr :=
  match decodeBytes 256 (bytesOfWord (BitVec.ofNat 32 (w % 2 ^ nbits))) with
  | some (i, _) => some i
  | none => none

end Sys2Proof
end

