-- ==== Sys2Proof/Machine/State.lean ====
section
/-!
DEFINITION. The state of the block (10_state.md), its reasons to stop, and the reset state
(70_reset_and_hazards.md R330). Every element the spec names is a field. The configuration and the
program store, which R30 calls parameters of the cycle step, are fields that nothing writes, so that a
step is a function of the state alone (R141; notes/assumptions/8.md).
-/
namespace Sys2Proof.Machine

/-- The seven stages, in the order of the trace and of the timestamps (R41, R306). -/
inductive Stage where
  | fetch
  | decode
  | dispatch
  | issue
  | execute
  | complete
  | retire
deriving DecidableEq, Repr

/-- The run status (R49). -/
inductive Status where
  | running
  | done
  | aborted
deriving DecidableEq, Repr

/-- The sentinel UNSET of timestamps and of `lat` (R40, R41). -/
def unset : Int := -1

/-- The timestamp vector `ts` of an instruction record (R41). -/
structure Timestamps where
  fetch : Int := unset
  decode : Int := unset
  dispatch : Int := unset
  issue : Int := unset
  execute : Int := unset
  complete : Int := unset
  retire : Int := unset
deriving DecidableEq, Repr

/-- The record `I[i]` of one program instruction (R40). Its static fields `kind`, `src1`, `src2` and
`dst` are those of `instr`; the others are written by the stages. -/
structure InstrRecord where
  /-- The static fields, decoded at program load (R103). -/
  instr : Instr
  /-- The tag of source 1, or NONE (R33, R205). -/
  ps1 : Option Nat := none
  /-- The tag of source 2, or NONE. -/
  ps2 : Option Nat := none
  /-- The ready snapshot of source 1 (R33). -/
  rdy1 : Bool := false
  /-- The ready snapshot of source 2. -/
  rdy2 : Bool := false
  /-- The tag allocated to the destination, or NONE (R206). -/
  pd : Option Nat := none
  renamed : Bool := false
  issued : Bool := false
  completed : Bool := false
  retired : Bool := false
  /-- The recorded latency, or UNSET (R240). -/
  lat : Int := unset
  /-- The station that holds the instruction, or NONE (R40). -/
  rsIdx : Option Nat := none
  ts : Timestamps := {}
deriving DecidableEq, Repr

/-- One entry of the reorder buffer (R43). -/
structure RobEntry where
  /-- The instruction index. -/
  inst : Nat
  /-- `T`, the newly allocated register, or NONE. -/
  newTag : Option Nat
  /-- `Told`, the register mapped before, or NONE. -/
  oldTag : Option Nat
deriving DecidableEq, Repr

/-- The dynamic fields of one reservation station (R44). Its static fields are in `Config.stations`. -/
structure Station where
  busy : Bool := false
  inst : Option Nat := none
deriving DecidableEq, Repr

/-- One trace event: cycle, stage, instruction index (R306). -/
structure TraceEvent where
  cycle : Nat
  stage : Stage
  index : Nat
deriving DecidableEq, Repr

/-- THE MODEL'S OWN (notes/assumptions/4.md): which instruction a stage procedure is working on. -/
structure Selection where
  stage : Stage
  index : Nat
deriving DecidableEq, Repr

/-- The program image: bytes by address (R83), in one canonical form: addresses strictly rising and no
entry 0, which is what an unlisted address reads as (notes/assumptions/11.md). -/
abbrev Memory := List Host.Cell

/-- Everything the spec gives the block. -/
structure State where
  /-- The configuration bank (R52). Nothing writes it. -/
  cfg : Config
  /-- `N`, the program length (R16). Nothing writes it. -/
  progLen : Nat
  /-- The program store (R80) as the little-endian image of R83. Nothing writes it. -/
  prog : Memory
  /-- The instruction records `I[0..N−1]` (R40). -/
  recs : List InstrRecord
  /-- The cycle counter (R48). -/
  cycle : Nat
  /-- The run status (R49). -/
  status : Status
  /-- The progress flag (R50). -/
  progress : Bool
  /-- The fetch pointer, the block's program counter (R47). -/
  fetchPtr : Nat
  /-- `FQ`, the decode queue, head first (R45). -/
  fq : List Nat
  /-- `DQ`, the dispatch queue. -/
  dq : List Nat
  /-- `XQ`, the execute queue. -/
  xq : List Nat
  /-- `CQ`, the complete queue. -/
  cq : List Nat
  /-- `DISP_OUT`, what dispatch advanced in this cycle (R46). -/
  dispOut : List Nat
  /-- `COMP_OUT`. -/
  compOut : List Nat
  /-- `RET_OUT`. -/
  retOut : List Nat
  /-- `spec_map[0..A−1]`, the speculative map table (R34). -/
  specMap : List Nat
  /-- `spec_ready[0..P−1]` (R35). -/
  specReady : List Bool
  /-- `arch_map[0..A−1]`, the committed map table (R36). -/
  archMap : List Nat
  /-- `arch_ready[0..P−1]` (R37). -/
  archReady : List Bool
  /-- The free list, head first (R38). -/
  freeList : List Nat
  /-- The pending-release list (R39). -/
  pendingFree : List Nat
  /-- The circular buffer `rob[0..ROB_SIZE−1]` (R43). -/
  rob : List RobEntry
  /-- `rob_head`. -/
  robHead : Nat
  /-- `rob_count`. -/
  robCount : Nat
  /-- The reservation stations `rs[0..K−1]`, in list order (R44). -/
  rs : List Station
  /-- `n_retired` (R51). -/
  nRetired : Nat
  /-- The output `trace`: the events of the last cycle performed (R60, R306; notes/assumptions/9.md). -/
  trace : List TraceEvent
  /-- The level of the input `rst` (R60; notes/assumptions/10.md). Nothing in the block writes it. -/
  rst : Bool
  /-- THE MODEL'S OWN: the instruction a stage procedure is working on; `none` between cycles. -/
  active : Option Selection
deriving DecidableEq, Repr

/-- Why a step stops with a fault. The block has no faults (R300, and 93_implementation_defined.md: no
behaviour has the treatment `fault`). Each of these marks a state that no run reaches, in which a list
of the model's state lacks an entry that the spec's table always has (notes/assumptions/5.md). All are
safe: the model stops where the spec says nothing. -/
inductive Fault where
  /-- A queue, a station, the ROB or the fetch pointer names an instruction index not below N: R80 gives
  no such program word and R40 no such record. Raised by the stage procedures and meanings. Safe. -/
  | noInstruction
  /-- An architectural index not below A, a tag not below P, or an empty free list where a register is
  taken (R34, R35, R206). Raised by renaming, completion and retirement. Safe. -/
  | noRegister
  /-- An instruction executes while no station holds it (R240). Raised by the execute stage. Safe. -/
  | noStation
  /-- The ROB lacks an entry that is used, or an entry of an instruction with a destination lacks T or
  Told (R43). Raised by dispatch and retirement. Safe. -/
  | noRobEntry
deriving DecidableEq, Repr

/-- Why a step is refused. -/
inductive Refusal where
  /-- The instruction has no meaning in this model. No arm of `exec` answers it. Safe. -/
  | notModelled (mnemonic : String)
  /-- The configuration is outside the legal values: the block has no run for it (R17). Raised by
  `step`. Safe. -/
  | illegalConfig
  /-- R103 refuses a descriptor of the program, and with it the whole program. Raised by `step`. Safe. -/
  | refusedDescriptor (why : DecodeRefusal)
deriving DecidableEq, Repr

/-- What a step answers. -/
abbrev Result := Host.Outcome State Fault Refusal

/-- A record as program load creates it (R40, R330). -/
def InstrRecord.fresh (i : Instr) : InstrRecord := { instr := i }

/-- What an entry of the ROB holds at reset. DESIGN CHOICE (notes/assumptions/3.md), unsafe: R43 leaves it
unspecified, and no rule reads it while it is unoccupied. -/
def RobEntry.initial : RobEntry := { inst := 0, newTag := none, oldTag := none }

/-- The readiness vectors at reset: true exactly for the initially mapped registers (R35, R37). -/
def readyAtReset (c : Config) : List Bool :=
  (List.range c.numPhys).map fun p => decide (p < c.numArch)

/-- The reset state of R330 for a configuration, a program store of `n` descriptors, and the `n`
instructions they decode to. -/
def State.ofReset (c : Config) (n : Nat) (prog : Memory) (is : List Instr) : State :=
  { cfg := c
    progLen := n
    prog := prog
    recs := is.map InstrRecord.fresh
    cycle := c.firstCycle
    status := .running
    progress := false
    fetchPtr := 0
    fq := []
    dq := []
    xq := []
    cq := []
    dispOut := []
    compOut := []
    retOut := []
    specMap := List.range c.numArch
    specReady := readyAtReset c
    archMap := List.range c.numArch
    archReady := readyAtReset c
    freeList := List.range' c.numArch (c.numPhys - c.numArch)
    pendingFree := []
    rob := List.replicate c.robSize RobEntry.initial
    robHead := 0
    robCount := 0
    rs := List.replicate c.stations.length {}
    nRetired := 0
    trace := []
    rst := false
    active := none }

/-- The block right after reset, with no program supplied yet (R330): `N = 0` and an empty store. A
program comes from the host (R332; notes/assumptions/2.md). -/
def State.reset : State := State.ofReset Config.initial 0 [] []

end Sys2Proof.Machine
end

