-- ==== Sys2Proof/Machine/Ops.lean ====
section
/-!
DEFINITION. The named operations on the program store, the queues, the records, the reorder buffer, the
stations and the outcome of a step. There is no operation that takes an exception or returns from one:
the block has neither (60_exceptions.md R300, R309); its terminal outcomes are in `cycleEnd`
(Machine/Cycle.lean).
-/
namespace Sys2Proof.Machine

/-! ## The program store -/

/-- What an address reads: its listed byte, or 0. -/
def Memory.readByte : Memory → Nat → Byte
  | [], _ => 0
  | (b, v) :: rest, a => if a = b then v else Memory.readByte rest a

/-- Store one byte, keeping the canonical form. The loader alone uses it: no rule of the block writes the
program store (R80, R89). -/
def Memory.writeByte : Memory → Nat → Byte → Memory
  | [], a, v => if v = 0#8 then [] else [(a, v)]
  | (b, x) :: rest, a, v =>
    if a < b then
      if v = 0#8 then (b, x) :: rest else (a, v) :: (b, x) :: rest
    else if a = b then
      if v = 0#8 then rest else (a, v) :: rest
    else (b, x) :: Memory.writeByte rest a v

/-- The canonical form above a given least address. -/
def Memory.wfFrom : Nat → Memory → Bool
  | _, [] => true
  | lo, (b, v) :: rest => decide (lo ≤ b) && decide (v ≠ 0#8) && Memory.wfFrom (b + 1) rest

/-- The canonical form: addresses strictly rising, no entry 0. -/
def Memory.wf (m : Memory) : Bool := Memory.wfFrom 0 m

/-- Store consecutive bytes from an address upward. -/
def Memory.writeBytes : Memory → Nat → List Byte → Memory
  | m, _, [] => m
  | m, a, v :: vs => Memory.writeBytes (m.writeByte a v) (a + 1) vs

/-- Store descriptor `i` of a program: bytes `4i` to `4i+3` (R83). -/
def Memory.writeDescriptor (m : Memory) (i : Nat) (w : Word) : Memory :=
  m.writeBytes (4 * i) (bytesOfWord w)

/-- The descriptor at index `i` of an image (R83). -/
def Memory.readDescriptor (m : Memory) (i : Nat) : Word :=
  wordOfBytes (m.readByte (4 * i)) (m.readByte (4 * i + 1)) (m.readByte (4 * i + 2))
    (m.readByte (4 * i + 3))

/-- The image of a program whose first descriptor stands at index `i`. -/
def Memory.writeProgram : Memory → Nat → List Word → Memory
  | m, _, [] => m
  | m, i, w :: ws => Memory.writeProgram (m.writeDescriptor i w) (i + 1) ws

/-- `ProgRead(i)` (R80). There is no word at an index not below `N` (R81). -/
def State.progRead (s : State) (i : Nat) : Option Word :=
  if i < s.progLen then some (s.prog.readDescriptor i) else none

/-! ## Outcomes -/

/-- Go on from a next state; a stop stays a stop. -/
def andThen (o : Result) (k : State → Result) : Result :=
  match o with
  | .next s => k s
  | .fault r => .fault r
  | .refused r => .refused r

/-! ## Records and timestamps -/

/-- One entry of the timestamp vector (R41). -/
def Timestamps.get (t : Timestamps) : Stage → Int
  | .fetch => t.fetch
  | .decode => t.decode
  | .dispatch => t.dispatch
  | .issue => t.issue
  | .execute => t.execute
  | .complete => t.complete
  | .retire => t.retire

/-- Write one entry of the timestamp vector (R41). -/
def Timestamps.set (t : Timestamps) (v : Int) : Stage → Timestamps
  | .fetch => { t with fetch := v }
  | .decode => { t with decode := v }
  | .dispatch => { t with dispatch := v }
  | .issue => { t with issue := v }
  | .execute => { t with execute := v }
  | .complete => { t with complete := v }
  | .retire => { t with retire := v }

/-- Change the record of instruction `j`. -/
def State.updateRecord (s : State) (j : Nat) (f : InstrRecord → InstrRecord) : State :=
  { s with recs := s.recs.modify j f }

/-- Give instruction `j` to its meaning, in stage `st`. -/
def State.select (s : State) (st : Stage) (j : Nat) : State :=
  { s with active := some ⟨st, j⟩ }

/-- No stage procedure is working on an instruction. -/
def State.deselect (s : State) : State := { s with active := none }

/-- What every stage does when it advances instruction `j`: `I[j].ts[stage] <- cycle` (R160), the trace
event (R306) and the progress flag (R135). The selection ends, which tells the stage procedure that the
instruction advanced. -/
def State.advanced (s : State) (st : Stage) (j : Nat) : State :=
  { s with
    recs := s.recs.modify j fun r => { r with ts := r.ts.set s.cycle st }
    trace := s.trace ++ [⟨s.cycle, st, j⟩]
    progress := true
    active := none }

/-! ## Queues (R19, R45) -/

/-- `full(FQ)`. -/
def State.fqFull (s : State) : Bool := decide (s.cfg.capFQ ≤ s.fq.length)

/-- `full(DQ)`, the one condition on which the dispatch queue rejects an instruction (R185). -/
def State.dqFull (s : State) : Bool := decide (s.cfg.capDQ ≤ s.dq.length)

/-- `full(XQ)`. -/
def State.xqFull (s : State) : Bool := decide (s.cfg.capXQ ≤ s.xq.length)

/-- `full(CQ)`. -/
def State.cqFull (s : State) : Bool := decide (s.cfg.capCQ ≤ s.cq.length)

/-! ## Reorder buffer (R43) -/

/-- The index of the occupied entry `q` places behind the head. -/
def State.robSlot (s : State) (q : Nat) : Nat := (s.robHead + q) % s.cfg.robSize

/-! ## Reservation stations (R44) -/

/-- The static type of station `k`. -/
def State.stationType (s : State) (k : Nat) : Option Kind := s.cfg.stations[k]?.map StationSpec.type

/-- The first index, counted from `k`, of a station of the type that is not busy. -/
def findFree (kind : Kind) : List StationSpec → List Station → Nat → Option Nat
  | c :: cs, r :: rs, k => if c.type = kind ∧ r.busy = false then some k else findFree kind cs rs (k + 1)
  | _, _, _ => none

/-- `free_station(kind)`: the lowest index (R202). -/
def State.freeStation (s : State) (kind : Kind) : Option Nat := findFree kind s.cfg.stations s.rs 0

/-- The instruction a busy station holds. -/
def Station.held (r : Station) : Option Nat := if r.busy then r.inst else none

/-- The instructions held in busy stations, in station-list order. -/
def State.heldInstrs (s : State) : List Nat := s.rs.filterMap Station.held

/-! ## Scan order of issue (R234, R235) -/

/-- The key by which OLDEST_FIRST orders the busy stations: the held instruction's sequence index. -/
def State.stationAge (s : State) (k : Nat) : Nat :=
  match s.rs[k]? with
  | some r => r.inst.getD 0
  | none => 0

/-- Put station `k` before the first station that holds a younger instruction. -/
def insertByAge (age : Nat → Nat) (k : Nat) : List Nat → List Nat
  | [] => [k]
  | m :: ms => if age k ≤ age m then k :: m :: ms else m :: insertByAge age k ms

/-- The stations in increasing order of the instruction they hold. -/
def sortByAge (age : Nat → Nat) : List Nat → List Nat
  | [] => []
  | k :: ks => insertByAge age k (sortByAge age ks)

/-- Is station `k` busy? -/
def State.stationBusy (s : State) (k : Nat) : Bool :=
  match s.rs[k]? with
  | some r => r.busy
  | none => false

/-- `scan_order()`. The idle stations come last in OLDEST_FIRST, in list order; no rule tells their order
apart (R235; notes/assumptions/13.md). -/
def State.scanOrder (s : State) : List Nat :=
  match s.cfg.issuePolicy with
  | .stationOrder => List.range s.rs.length
  | .oldestFirst =>
    sortByAge s.stationAge ((List.range s.rs.length).filter s.stationBusy)
      ++ (List.range s.rs.length).filter fun k => !s.stationBusy k

end Sys2Proof.Machine
end

