-- ==== Sys2Proof/Machine/Boot.lean ====
section
/-!
DEFINITION. Program load, the check before the first cycle, and the input `rst`
(70_reset_and_hazards.md R331, R332; 00_scope.md R17; 30_encoding.md R103).
-/
namespace Sys2Proof.Machine

/-- Decode the `n` descriptors of an image from index `i` on. The first one refused refuses the whole
program (R103). -/
def decodeFrom (numArch : Nat) (prog : Memory) : Nat → Nat → Except DecodeRefusal (List Instr)
  | _, 0 => .ok []
  | i, n + 1 =>
    match decode numArch (prog.readDescriptor i) with
    | .error why => .error why
    | .ok instr =>
      match decodeFrom numArch prog (i + 1) n with
      | .error why => .error why
      | .ok rest => .ok (instr :: rest)

/-- The instructions of the state's program, or the refusal of its first refused descriptor. -/
def State.program (s : State) : Except DecodeRefusal (List Instr) :=
  decodeFrom s.cfg.numArch s.prog 0 s.progLen

/-- The check of R17 (notes/assumptions/7.md). The configuration and the program are parameters that never change, so checking them
before every cycle answers what checking them once before the first does. -/
def State.admission (s : State) : Option Refusal :=
  if s.cfg.legal then
    match s.program with
    | .error why => some (.refusedDescriptor why)
    | .ok _ => none
  else some .illegalConfig

/-- Construction with an image already in the program store: the reset state of R330. A refused program has
no instruction records: the block has no run for it. -/
def State.construct (c : Config) (n : Nat) (prog : Memory) : State :=
  match decodeFrom c.numArch prog 0 n with
  | .ok is => State.ofReset c n prog is
  | .error _ => State.ofReset c n prog []

/-- What the host does before the first cycle (R332): fix a configuration and supply a program. -/
def State.load (c : Config) (ws : List Word) : State :=
  State.construct c ws.length (Memory.writeProgram [] 0 ws)

/-- While `rst` is asserted the block holds the reset state of its configuration and program (R331). -/
def State.heldInReset (s : State) : State :=
  { State.construct s.cfg s.progLen s.prog with rst := true }

/-- Place one descriptor where the next cycle fetches: at index `fetch_ptr`, which becomes the last of the
program; with it the record that program load creates, room in FQ, and a block that runs. -/
def State.placeDescriptor (s : State) (w : Word) : State :=
  let prog := s.prog.writeDescriptor s.fetchPtr w
  { s with
    progLen := s.fetchPtr + 1
    prog := prog
    recs := match decode s.cfg.numArch w with
      | .ok i => s.recs.take s.fetchPtr ++ [InstrRecord.fresh i]
      | .error _ => s.recs.take s.fetchPtr
    fq := []
    status := .running
    rst := false
    active := none }

end Sys2Proof.Machine
end

