-- ==== Sys2Proof/Machine/Flags.lean ====
section
/-!
DEFINITION. The only flags of the block: the status flags `renamed`, `issued`, `completed` and `retired`
of an instruction record (10_state.md R42). There are no condition codes and no status register. Each flag
has one writer (R40).
-/
namespace Sys2Proof.Machine

/-- `renamed <- true`, by dispatch (R208). -/
def InstrRecord.markRenamed (r : InstrRecord) : InstrRecord := { r with renamed := true }

/-- `issued <- true`, by issue (R232). -/
def InstrRecord.markIssued (r : InstrRecord) : InstrRecord := { r with issued := true }

/-- `completed <- true`, by complete (R260). -/
def InstrRecord.markCompleted (r : InstrRecord) : InstrRecord := { r with completed := true }

/-- `retired <- true`, by retire (R282). -/
def InstrRecord.markRetired (r : InstrRecord) : InstrRecord := { r with retired := true }

end Sys2Proof.Machine
end

