-- ==== Sys2Proof/Machine/Operands.lean ====
section
/-!
DEFINITION. The operands: renaming of sources and destination (43_dispatch_rename.md), the ready condition
of issue (44_issue_execute.md R231), and the wakeup broadcast (45_complete_wakeup.md R262).
-/
namespace Sys2Proof.Machine

/-- A source as dispatch records it: its tag and the copy of the ready bit (R33). -/
abbrev Snapshot := Option Nat × Bool

/-- Renaming of one source (R205). An absent source gets NONE and `false`. -/
def State.renameSource (s : State) : Operand → Except Fault Snapshot
  | none => .ok (none, false)
  | some a =>
    match s.specMap[a]? with
    | none => .error .noRegister
    | some p =>
      match s.specReady[p]? with
      | none => .error .noRegister
      | some r => .ok (some p, r)

/-- What renaming of a destination answers: the state, T and Told. -/
structure Renaming where
  state : State
  newTag : Option Nat
  oldTag : Option Nat
deriving DecidableEq, Repr

/-- `rename_destination` (R206): take the head of the free list, mark it not ready, and install it as the
mapping; Told is the mapping before. -/
def State.renameDestination (s : State) : Operand → Except Fault Renaming
  | none => .ok ⟨s, none, none⟩
  | some a =>
    match s.freeList with
    | [] => .error .noRegister
    | t :: rest =>
      match s.specMap[a]? with
      | none => .error .noRegister
      | some old =>
        if t < s.specReady.length then
          .ok ⟨{ s with
                  freeList := rest
                  specReady := s.specReady.set t false
                  specMap := s.specMap.set a t }, some t, some old⟩
        else .error .noRegister

/-- `ready_to_execute` (R231), for an instruction with sources `a` and `b`. -/
def readyToExecute (a b : Operand) (r : InstrRecord) : Bool :=
  (a.isNone || r.rdy1) && (b.isNone || r.rdy2)

/-- What the broadcast of tag `t` does to the record of an instruction in a busy station (R262). -/
def InstrRecord.wake (t : Nat) (r : InstrRecord) : InstrRecord :=
  { r with
    rdy1 := r.rdy1 || (r.instr.src1.isSome && decide (r.ps1 = some t))
    rdy2 := r.rdy2 || (r.instr.src2.isSome && decide (r.ps2 = some t)) }

/-- Wake the records of the given instructions, one after another. -/
def wakeAll (t : Nat) : List Nat → List InstrRecord → List InstrRecord
  | [], recs => recs
  | j :: js, recs => wakeAll t js (recs.modify j (InstrRecord.wake t))

/-- `broadcast(T)` (R262); the broadcast of NONE changes nothing (R264). -/
def State.broadcast (s : State) : Option Nat → State
  | none => s
  | some t => { s with recs := wakeAll t s.heldInstrs s.recs }

/-- `spec_ready[pd] <- true` when the instruction has a destination (R263). -/
def State.markReady (s : State) : Option Nat → Except Fault State
  | none => .ok s
  | some t =>
    if t < s.specReady.length then .ok { s with specReady := s.specReady.set t true }
    else .error .noRegister

end Sys2Proof.Machine
end

