-- ==== Sys2Proof/Machine/Stages.lean ====
section
/-!
DEFINITION. What each of the seven stages does with ONE instruction: the condition on which it advances
it, and the change of state when it does (files 42 to 46). Where the condition fails the state stays as it
is (R140, R300), and the selection with it. The stage procedures, which choose the instructions and count
them, are in Machine/Cycle.lean.
-/
namespace Sys2Proof.Machine

/-- Fetch of instruction `j` (R181): it stalls on a full FQ. -/
def fetchStage (j : Nat) (s : State) : Result :=
  if s.fqFull then .next s
  else .next ({ s with fq := s.fq ++ [j], fetchPtr := s.fetchPtr + 1 }.advanced .fetch j)

/-- Decode of instruction `j`, the head of FQ (R183): a relay that stalls on a full DQ (R185). -/
def decodeStage (j : Nat) (s : State) : Result :=
  if s.dqFull then .next s
  else .next ({ s with fq := s.fq.tail, dq := s.dq ++ [j] }.advanced .decode j)

/-- The preconditions (a), (b) and (c) of dispatch, in their order (R201 to R204): the free station, or
`none` where dispatch stalls. -/
def State.dispatchStation (s : State) (kind : Kind) (d : Operand) : Option Nat :=
  if s.cfg.robSize ≤ s.robCount then none
  else
    match s.freeStation kind with
    | none => none
    | some k => if d.isSome && s.freeList.isEmpty then none else some k

/-- What dispatch writes into the record (R205 to R208). -/
def InstrRecord.dispatched (src1 src2 : Snapshot) (pd : Option Nat) (k : Nat) (r : InstrRecord) :
    InstrRecord :=
  { r with
    ps1 := src1.1
    rdy1 := src1.2
    ps2 := src2.1
    rdy2 := src2.2
    pd := pd
    rsIdx := some k }.markRenamed

/-- `allocate` (R207): the ROB entry and the station. -/
def State.allocate (s : State) (j k : Nat) (newTag oldTag : Option Nat) : Except Fault State :=
  if s.robSlot s.robCount < s.rob.length then
    .ok { s with
          rob := s.rob.set (s.robSlot s.robCount) ⟨j, newTag, oldTag⟩
          robCount := s.robCount + 1
          rs := s.rs.set k { busy := true, inst := some j } }
  else .error .noRobEntry

/-- Dispatch of instruction `j`, the head of DQ (R200): sources before destination, then allocation. -/
def dispatchStage (kind : Kind) (d a b : Operand) (j : Nat) (s : State) : Result :=
  match s.dispatchStation kind d with
  | none => .next s
  | some k =>
    match s.renameSource a with
    | .error f => .fault f
    | .ok src1 =>
      match s.renameSource b with
      | .error f => .fault f
      | .ok src2 =>
        match s.renameDestination d with
        | .error f => .fault f
        | .ok n =>
          match n.state.allocate j k n.newTag n.oldTag with
          | .error f => .fault f
          | .ok t =>
            .next (({ t with dq := t.dq.tail, dispOut := t.dispOut ++ [j] }.updateRecord j
              (InstrRecord.dispatched src1 src2 n.newTag k)).advanced .dispatch j)

/-- Issue of instruction `j`, held by a busy station (R230 to R232): it needs room in XQ, every present
source ready, and not to have issued before. -/
def issueStage (a b : Operand) (j : Nat) (s : State) : Result :=
  match s.recs[j]? with
  | none => .fault .noInstruction
  | some r =>
    if !s.xqFull && readyToExecute a b r && !r.issued then
      .next (({ s with xq := s.xq ++ [j] }.updateRecord j InstrRecord.markIssued).advanced .issue j)
    else .next s

/-- Execute of instruction `j`, the head of XQ (R240, R241): it stalls on a full CQ. The latency is that
of the type of the station that held the instruction (R242). -/
def executeStage (j : Nat) (s : State) : Result :=
  if s.cqFull then .next s
  else
    match s.recs[j]?.bind InstrRecord.rsIdx with
    | none => .fault .noStation
    | some k =>
      match s.stationType k with
      | none => .fault .noStation
      | some type =>
        .next (({ s with
            xq := s.xq.tail
            cq := s.cq ++ [j]
            rs := s.rs.set k {} }.updateRecord j fun r =>
              { r with lat := s.cfg.lat type, rsIdx := none }).advanced .execute j)

/-- Completion of instruction `j`, a candidate of CQ (R260 to R264): at its deadline it broadcasts its
destination, sets the readiness bit, and leaves CQ. -/
def completeStage (j : Nat) (s : State) : Result :=
  match s.recs[j]? with
  | none => .fault .noInstruction
  | some r =>
    if r.ts.execute + r.lat ≤ s.cycle then
      match (s.broadcast r.pd).markReady r.pd with
      | .error f => .fault f
      | .ok t =>
        .next (({ t with cq := t.cq.erase j, compOut := t.compOut ++ [j] }.updateRecord j
          InstrRecord.markCompleted).advanced .complete j)
    else .next s

/-- The committed mapping and the release of Told at retirement (R282 to R284). -/
def State.commit (s : State) (d : Operand) (e : RobEntry) : Except Fault State :=
  match d with
  | none => .ok s
  | some a =>
    match e.newTag, e.oldTag with
    | some t, some old =>
      if a < s.archMap.length then
        .ok { s with archMap := s.archMap.set a t, pendingFree := s.pendingFree ++ [old] }
      else .error .noRegister
    | _, _ => .error .noRobEntry

/-- Retirement of instruction `j`, that of the head ROB entry (R280 to R282): it stops on an empty ROB and
on an instruction that has not completed. -/
def retireStage (d : Operand) (j : Nat) (s : State) : Result :=
  if s.robCount = 0 then .next s
  else
    match s.rob[s.robHead]? with
    | none => .fault .noRobEntry
    | some e =>
      match s.recs[j]? with
      | none => .fault .noInstruction
      | some r =>
        if r.completed then
          match s.commit d e with
          | .error f => .fault f
          | .ok t =>
            .next (({ t with
                robHead := t.robSlot 1
                robCount := t.robCount - 1
                nRetired := t.nRetired + 1
                retOut := t.retOut ++ [j] }.updateRecord j InstrRecord.markRetired).advanced .retire j)
        else .next s

/-- The path of an instruction through the pipeline (R160): the stage that selected it acts on it. The
kind enters where dispatch chooses the station type. An instruction that no stage selected does nothing
(notes/assumptions/4.md). -/
def runStage (kind : Kind) (d a b : Operand) (s : State) : Result :=
  match s.active with
  | none => .next s
  | some ⟨.fetch, j⟩ => fetchStage j s
  | some ⟨.decode, j⟩ => decodeStage j s
  | some ⟨.dispatch, j⟩ => dispatchStage kind d a b j s
  | some ⟨.issue, j⟩ => issueStage a b j s
  | some ⟨.execute, j⟩ => executeStage j s
  | some ⟨.complete, j⟩ => completeStage j s
  | some ⟨.retire, j⟩ => retireStage d j s

end Sys2Proof.Machine
end

