-- ==== Sys2Proof/Machine/Kinds.lean ====
section
/-!
DEFINITION. The meanings of the three instructions (41_instruction_kinds.md). An instruction's meaning is
its path through the seven stages (R160): what the stage that has selected it does with it. The kinds
differ only in the type of station they need, and through it in their latency.
-/
namespace Sys2Proof.Machine

/-- ALU (R161): its stations are the ALU stations, its latency `LAT(ALU)`. -/
def execAlu (d s1 s2 : Operand) (s : State) : Result := runStage .alu d s1 s2 s

/-- LOAD (R162): its stations are the LOAD stations, its latency `LAT(LOAD)`. It moves no data (R82). -/
def execLoad (d s1 s2 : Operand) (s : State) : Result := runStage .load d s1 s2 s

/-- STORE (R163): its stations are the STORE stations, its latency `LAT(STORE)`. It moves no data (R82);
one with a destination is renamed like any other instruction (R104). -/
def execStore (d s1 s2 : Operand) (s : State) : Result := runStage .store d s1 s2 s

end Sys2Proof.Machine
end

