-- ==== Sys2Proof/Machine/Dispatch.lean ====
section
/-!
DEFINITION. The meaning of every instruction: one arm per constructor of Instr.
-/
namespace Sys2Proof.Machine

-- What the stage that has selected the instruction (State.active) does with it (41_instruction_kinds.md R160).
def exec (i : Instr) (s : State) : Host.Outcome State Fault Refusal :=
  match i with
  | .alu d s1 s2 => Sys2Proof.Machine.execAlu d s1 s2 s
  | .load d s1 s2 => Sys2Proof.Machine.execLoad d s1 s2 s
  | .store d s1 s2 => Sys2Proof.Machine.execStore d s1 s2 s

end Sys2Proof.Machine
end

