-- ==== Sys2Proof/Machine/Cycle.lean ====
section
/-!
DEFINITION. The cycle step (40_cycle_protocol.md R130): the start of a cycle, the seven stage procedures in
reverse pipeline order (R131), and the end of a cycle. A stage procedure chooses the instructions, hands
each to its meaning (`exec`), and stops when one does not advance, when it has advanced `W`, or when its
source is empty (R140).
-/
namespace Sys2Proof.Machine

/-- `cycle_start` (R132): the registers released in the cycle before enter the free list. -/
def cycleStart (s : State) : State :=
  { s with
    progress := false
    freeList := s.freeList ++ s.pendingFree
    pendingFree := []
    dispOut := []
    compOut := []
    retOut := []
    trace := [] }

/-- Hand instruction `j` to its meaning in stage `st`. -/
def present (st : Stage) (j : Nat) (s : State) : Result :=
  match s.recs[j]? with
  | none => .fault .noInstruction
  | some r => exec r.instr (s.select st j)

/-- After a meaning: go on with `next` where the instruction advanced, and end the stage procedure for this
cycle where it stalled (R140). -/
def orStall (o : Result) (next : State → Result) : Result :=
  andThen o fun t => if t.active.isNone then next t else .next t.deselect

/-- `retire` (R280), with `n` of the `W` retirements left. -/
def retireLoop : Nat → State → Result
  | 0, s => .next s
  | n + 1, s =>
    if s.robCount = 0 then .next s
    else
      match s.rob[s.robHead]? with
      | none => .fault .noRobEntry
      | some e => orStall (present .retire e.inst s) (retireLoop n)

/-- `complete` (R260) over the candidates that are left. One that is not due is passed over. -/
def completeScan : List Nat → State → Result
  | [], s => .next s
  | j :: js, s => andThen (present .complete j s) fun t => completeScan js t.deselect

/-- The candidates of `complete`, taken before any removal: the first `min(W, len(CQ))` of CQ (R260). -/
def State.candidates (s : State) : List Nat := s.cq.take s.cfg.width

/-- `execute` (R240). -/
def executeLoop : Nat → State → Result
  | 0, s => .next s
  | n + 1, s =>
    match s.xq with
    | [] => .next s
    | j :: _ => orStall (present .execute j s) (executeLoop n)

/-- `issue` (R230) over the stations that are left, with `n` of the `W` issues left. A station whose
instruction does not issue is passed over; the scan ends at the cap or at a full XQ (R233, R236). -/
def issueScan : List Nat → Nat → State → Result
  | [], _, s => .next s
  | k :: ks, n, s =>
    if n = 0 || s.xqFull then .next s
    else
      match s.rs[k]?.bind Station.held with
      | none => issueScan ks n s
      | some j =>
        andThen (present .issue j s) fun t =>
          if t.active.isNone then issueScan ks (n - 1) t else issueScan ks n t.deselect

/-- `dispatch` (R200). -/
def dispatchLoop : Nat → State → Result
  | 0, s => .next s
  | n + 1, s =>
    match s.dq with
    | [] => .next s
    | j :: _ => orStall (present .dispatch j s) (dispatchLoop n)

/-- `decode` (R183). -/
def decodeLoop : Nat → State → Result
  | 0, s => .next s
  | n + 1, s =>
    match s.fq with
    | [] => .next s
    | j :: _ => orStall (present .decode j s) (decodeLoop n)

/-- Read and decode the descriptor at the fetch pointer and give the instruction to its meaning. Fetch is
the only stage that reads the program store (R180). -/
def presentFetched (s : State) : Result :=
  match s.progRead s.fetchPtr with
  | none => .fault .noInstruction
  | some w =>
    match decode s.cfg.numArch w with
    | .error why => .refused (.refusedDescriptor why)
    | .ok i => exec i (s.select .fetch s.fetchPtr)

/-- `fetch` (R181). -/
def fetchLoop : Nat → State → Result
  | 0, s => .next s
  | n + 1, s =>
    if s.fetchPtr < s.progLen then orStall (presentFetched s) (fetchLoop n) else .next s

/-- The seven stages, each one seeing every write of those before it (R131, R133). -/
def stagesBeforeFetch (s : State) : Result :=
  andThen (retireLoop s.cfg.width (cycleStart s)) fun s =>
  andThen (completeScan s.candidates s) fun s =>
  andThen (executeLoop s.cfg.width s) fun s =>
  andThen (issueScan s.scanOrder s.cfg.width s) fun s =>
  andThen (dispatchLoop s.cfg.width s) fun s =>
  decodeLoop s.cfg.width s

/-- The watchdog condition of R137. -/
def State.watchdogFires (s : State) : Bool :=
  !s.progress && (decide (s.cfg.watchdogMode = .literalRule) || s.cq.isEmpty)

/-- `cycle_end` (R137, R138): DONE is tested before the watchdog (R305). -/
def cycleEnd (s : State) : State :=
  if s.nRetired = s.progLen then { s with status := .done }
  else if s.watchdogFires then { s with status := .aborted }
  else { s with cycle := s.cycle + 1 }

/-- `cycle_step` (R130). -/
def cycleStep (s : State) : Result :=
  andThen (stagesBeforeFetch s) fun s =>
  andThen (fetchLoop s.cfg.width s) fun s =>
  .next (cycleEnd s)

end Sys2Proof.Machine
end

