-- ==== Sys2Proof/Machine/Step.lean ====
section
/-!
DEFINITION. The step: one rising edge of `clk` (10_state.md R61). A refused configuration or program has no
step (R17); an asserted `rst` holds the reset state (R331); after DONE or ABORTED an edge changes nothing
(R315); otherwise the edge performs one cycle step (R130).
-/
namespace Sys2Proof.Machine

/-- One clock edge. -/
def step (s : State) : Host.Outcome State Fault Refusal :=
  match s.admission with
  | some why => .refused why
  | none =>
    if s.rst then .next s.heldInReset
    else
      match s.status with
      | .running => cycleStep s
      | .done => .next s
      | .aborted => .next s

/-- `s` with the instruction in the low `nbits` bits of `w` placed where the next cycle fetches. A program
is loaded from outside the block (R332); this stands for that load (notes/assumptions/2.md). -/
def State.withFetchWord (s : State) (nbits w : Nat) : State :=
  s.placeDescriptor (BitVec.ofNat 32 (w % 2 ^ nbits))

end Sys2Proof.Machine
end

