-- ==== Sys2Proof/Machine/Assembly.lean ====
section
/-!
DEFINITION. The assembly syntax of 30_encoding.md R108, `<KIND> <dst>, <src1>, <src2>`, read from and
written to a list of characters, and its assembly into a descriptor word (R109). Between the parts any
number of blanks may stand (notes/assumptions/6.md).
-/
namespace Sys2Proof.Machine

/-- Drop leading blanks. -/
def skipBlanks : List Char → List Char
  | [] => []
  | c :: cs => if c = ' ' then skipBlanks cs else c :: cs

/-- The characters before the first blank or comma, and the rest. -/
def takeToken : List Char → List Char × List Char
  | [] => ([], [])
  | c :: cs =>
    if c = ' ' ∨ c = ',' then ([], c :: cs)
    else ((c :: (takeToken cs).1), (takeToken cs).2)

/-- The kind of a mnemonic; mnemonics are case-insensitive (R108). -/
def kindOfMnemonic (cs : List Char) : Option Kind :=
  let low := cs.map Char.toLower
  if low = ['a', 'l', 'u'] then some .alu
  else if low = ['l', 'o', 'a', 'd'] then some .load
  else if low = ['s', 't', 'o', 'r', 'e'] then some .store
  else none

/-- The value of a decimal digit. -/
def digitValue (c : Char) : Option Nat :=
  if '0' ≤ c ∧ c ≤ '9' then some (c.toNat - '0'.toNat) else none

/-- The number a digit string continues, given the value of the digits before. -/
def readDigits : Nat → List Char → Option Nat
  | v, [] => some v
  | v, c :: cs =>
    match digitValue c with
    | some d => readDigits (10 * v + d) cs
    | none => none

/-- An operand: `r<n>` with `n < A`, or `-` for NONE (R108). -/
def readOperand (numArch : Nat) : List Char → Option Operand
  | ['-'] => some none
  | 'r' :: c :: cs =>
    match readDigits 0 (c :: cs) with
    | some n => if n < numArch then some (some n) else none
    | none => none
  | _ => none

/-- The rest after the comma that separates two operands. -/
def expectComma (cs : List Char) : Option (List Char) :=
  match skipBlanks cs with
  | ',' :: rest => some rest
  | _ => none

/-- One line of assembly (R108). -/
def readAssembly (numArch : Nat) (line : List Char) : Option Instr :=
  let mnemonic := takeToken (skipBlanks line)
  let dst := takeToken (skipBlanks mnemonic.2)
  match kindOfMnemonic mnemonic.1, readOperand numArch dst.1, expectComma dst.2 with
  | some k, some d, some rest1 =>
    let src1 := takeToken (skipBlanks rest1)
    match readOperand numArch src1.1, expectComma src1.2 with
    | some a, some rest2 =>
      let src2 := takeToken (skipBlanks rest2)
      match readOperand numArch src2.1, skipBlanks src2.2 with
      | some b, [] => some (Instr.ofKind k d a b)
      | _, _ => none
    | _, _ => none
  | _, _, _ => none

/-- The descriptor word of one line of assembly (R109). -/
def assemble (numArch : Nat) (line : List Char) : Option Word := (readAssembly numArch line).map encode

/-- The mnemonic of a kind, as R108 writes it. -/
def mnemonicOf : Kind → List Char
  | .alu => ['A', 'L', 'U']
  | .load => ['L', 'O', 'A', 'D']
  | .store => ['S', 'T', 'O', 'R', 'E']

/-- An operand as R108 writes it. -/
def writeOperand : Operand → List Char
  | none => ['-']
  | some n => 'r' :: Nat.toDigits 10 n

/-- An instruction as R108 writes it. -/
def writeAssembly (i : Instr) : List Char :=
  mnemonicOf i.kind ++ ' ' :: writeOperand i.dst ++ ',' :: ' ' :: writeOperand i.src1
    ++ ',' :: ' ' :: writeOperand i.src2

end Sys2Proof.Machine
end

