-- ==== Sys2Proof/Machine/Outputs.lean ====
section
/-!
DEFINITION. What the host reads (60_exceptions.md R304, R306, R307; 10_state.md R60). The outputs `status`,
`cycle` and `trace` are fields of the state.
-/
namespace Sys2Proof.Machine

/-- The seven stages in the order of the report. -/
def stages : List Stage := [.fetch, .decode, .dispatch, .issue, .execute, .complete, .retire]

/-- One row of the report: the seven timestamps, UNSET for a stage not reached (R307). -/
def InstrRecord.reportRow (r : InstrRecord) : List Int := stages.map r.ts.get

/-- The final report, valid once the run has ended (R60, R307). -/
def State.report (s : State) : Option (List (List Int)) :=
  if s.status = .running then none else some (s.recs.map InstrRecord.reportRow)

/-- The state dump, valid once the run has aborted: the whole state (R304; notes/assumptions/14.md). -/
def State.dump (s : State) : Option State :=
  if s.status = .aborted then some s else none

end Sys2Proof.Machine
end

