-- ==== Sys2Proof/Safety.lean ====
section
/-!
DEFINITION. What a good state of the block is, in the terms the claims use: the state invariants of
70_reset_and_hazards.md section 4 (R350 to R354), with what each of them rests on. Each `structure` below is
a predicate on ONE state, meant to hold at every cycle boundary of every run; none of them speaks of a
program or of the past.
-/
namespace Sys2Proof.Machine

/-! ## Vocabulary -/

/-- The block performs a cycle at the next edge: it is admitted (R17), `rst` is deasserted and it has not
halted (R61). -/
abbrev State.performsCycle (s : State) : Prop :=
  s.admission = none ∧ s.rst = false ∧ s.status = .running

/-- The record of instruction `j`; outside the program, a record that load would make for `ALU -, -, -`. -/
def State.record (s : State) (j : Nat) : InstrRecord :=
  s.recs.getD j (InstrRecord.fresh (.alu none none none))

/-- How many instructions have dispatched: the retired ones and those in the ROB (R200, R280). -/
def State.numDispatched (s : State) : Nat := s.nRetired + s.robCount

/-- The occupied ROB entries, head first (R43). -/
def State.robEntries (s : State) : List RobEntry :=
  (List.range s.robCount).map fun q => s.rob.getD (s.robSlot q) RobEntry.initial

/-- The instruction station `k` holds (R44). -/
def State.stationInst (s : State) (k : Nat) : Option Nat := s.rs[k]?.bind Station.inst

/-- The instruction has executed: its `ts.execute` is set (R41). -/
def InstrRecord.executed (r : InstrRecord) : Bool := decide (r.ts.execute ≠ unset)

/-- The first cycle number no timestamp has reached: the current cycle while the block runs, the one after
it once the block has halted (R48, R137). -/
def State.horizon (s : State) : Int :=
  if s.status = .running then s.cycle else s.cycle + 1

/-- The record is as load made it, but for the timestamps of fetch and decode (R40, R184). -/
abbrev InstrRecord.undispatched (r : InstrRecord) : Prop :=
  r = { InstrRecord.fresh r.instr with ts := { fetch := r.ts.fetch, decode := r.ts.decode } }

/-- A timestamp that is set is later than the one before it, which is set too (R353). -/
abbrev follows (earlier later : Int) : Prop := later ≠ unset → earlier ≠ unset ∧ earlier < later

/-- Stage monotonicity of one instruction (R353). -/
abbrev Timestamps.monotone (t : Timestamps) : Prop :=
  follows t.fetch t.decode ∧ follows t.decode t.dispatch ∧ follows t.dispatch t.issue
    ∧ follows t.issue t.execute ∧ follows t.execute t.complete ∧ follows t.complete t.retire

/-- The youngest instruction before `j` with destination `a`. -/
def State.lastWriter (s : State) (a : Nat) : Nat → Option Nat
  | 0 => none
  | j + 1 => if (s.record j).instr.dst = some a then some j else s.lastWriter a j

/-- The tag that register `a` has for instruction `j`: that of the youngest earlier writer, or the initial
one (R34, R284). -/
def State.tagBefore (s : State) (a j : Nat) : Option Nat :=
  match s.lastWriter a j with
  | none => some a
  | some i => (s.record i).pd

/-- The value of register `a` that instruction `j` reads exists: its youngest earlier writer has completed,
or it has none (R35, R340). -/
def State.producerDone (s : State) (a j : Nat) : Bool :=
  match s.lastWriter a j with
  | none => true
  | some i => (s.record i).completed

/-- The place of a stage in the order of a cycle (R131). -/
def Stage.rank : Stage → Nat
  | .retire => 0
  | .complete => 1
  | .execute => 2
  | .issue => 3
  | .dispatch => 4
  | .decode => 5
  | .fetch => 6

/-- The instructions a stage advanced in the last cycle performed, in the order of the trace (R306). -/
def State.advancedBy (s : State) (st : Stage) : List Nat :=
  (s.trace.filter fun e => decide (e.stage = st)).map TraceEvent.index

/-- The snapshot bit of a source at dispatch: the readiness of the tag it is mapped to, and false for an
absent one (R205). -/
def State.sourceReady (s : State) (o : Operand) : Bool :=
  match o with
  | none => false
  | some a => s.specReady.getD (s.specMap.getD a 0) false

/-- Every present source of an instruction is in the maps: its index has a tag, and the tag a readiness
bit. -/
abbrev State.mapsSources (s : State) (i : Instr) : Prop :=
  (∀ a ∈ i.src1, ∃ p, s.specMap[a]? = some p ∧ p < s.specReady.length)
    ∧ (∀ a ∈ i.src2, ∃ p, s.specMap[a]? = some p ∧ p < s.specReady.length)

/-! ## The shape of the state -/

/-- Every table has the size the configuration gives it, and the counters and queues are in their ranges
(R34 to R37, R43 to R47). -/
structure State.Shaped (s : State) : Prop where
  /-- The configuration is legal and every descriptor decodes (R17). -/
  admitted : s.admission = none
  /-- The static fields are those the program decodes to (R40, R103). -/
  loaded : s.program = .ok (s.recs.map InstrRecord.instr)
  /-- No stage procedure is at work between cycles. -/
  idle : s.active = none
  canonical : s.prog.wf = true
  specMap_length : s.specMap.length = s.cfg.numArch
  specReady_length : s.specReady.length = s.cfg.numPhys
  archMap_length : s.archMap.length = s.cfg.numArch
  archReady_reset : s.archReady = readyAtReset s.cfg
  rob_length : s.rob.length = s.cfg.robSize
  robHead_lt : s.robHead < s.cfg.robSize
  robCount_le : s.robCount ≤ s.cfg.robSize
  rs_length : s.rs.length = s.cfg.stations.length
  fq_length : s.fq.length ≤ s.cfg.capFQ
  dq_length : s.dq.length ≤ s.cfg.capDQ
  xq_length : s.xq.length ≤ s.cfg.capXQ
  cq_length : s.cq.length ≤ s.cfg.capCQ

/-! ## Where every instruction is -/

/-- Every instruction is in the place its flags, its back-reference and its timestamps say, and the in-order
parts of the block hold the instructions in program order (R40 to R45, R86, R285, R353). -/
structure State.Placed (s : State) : Prop where
  /-- The ROB holds the dispatched, unretired instructions in program order (R285). -/
  rob_order : s.robEntries.map RobEntry.inst = List.range' s.nRetired s.robCount
  /-- DQ and then FQ hold the fetched, undispatched instructions in program order (R86). -/
  front_order : s.dq ++ s.fq = List.range' s.numDispatched (s.fetchPtr - s.numDispatched)
  dispatched_le : s.numDispatched ≤ s.fetchPtr
  fetchPtr_le : s.fetchPtr ≤ s.progLen
  /-- A station is busy exactly when it holds an instruction (R44). -/
  busy_iff : ∀ r ∈ s.rs, r.busy = r.inst.isSome
  /-- A station holds a dispatched, unretired instruction of its type that refers back to it (R44, R207). -/
  held : ∀ k < s.rs.length, ∀ j ∈ s.stationInst k,
    s.nRetired ≤ j ∧ j < s.numDispatched ∧ (s.record j).rsIdx = some k
      ∧ s.stationType k = some (s.record j).instr.kind
  /-- A back-reference names the station that holds the instruction (R40). -/
  holds : ∀ j < s.progLen, ∀ k ∈ (s.record j).rsIdx, s.stationInst k = some j
  renamed_iff : ∀ j < s.progLen, (s.record j).renamed = decide (j < s.numDispatched)
  retired_iff : ∀ j < s.progLen, (s.record j).retired = decide (j < s.nRetired)
  retired_completed : ∀ j < s.progLen, (s.record j).retired = true → (s.record j).completed = true
  completed_executed : ∀ j < s.progLen, (s.record j).completed = true → (s.record j).executed = true
  executed_issued : ∀ j < s.progLen, (s.record j).executed = true → (s.record j).issued = true
  issued_renamed : ∀ j < s.progLen, (s.record j).issued = true → (s.record j).renamed = true
  /-- The back-reference is valid between dispatch and execute (R40). -/
  rsIdx_iff : ∀ j < s.progLen,
    (s.record j).rsIdx.isSome = ((s.record j).renamed && !(s.record j).executed)
  untouched : ∀ j < s.progLen, (s.record j).renamed = false → (s.record j).undispatched
  xq_nodup : s.xq.Nodup
  xq_lt : ∀ j ∈ s.xq, j < s.progLen
  /-- XQ holds the issued, unexecuted instructions. -/
  xq_iff : ∀ j < s.progLen, j ∈ s.xq ↔ (s.record j).issued = true ∧ (s.record j).executed = false
  cq_nodup : s.cq.Nodup
  cq_lt : ∀ j ∈ s.cq, j < s.progLen
  /-- CQ holds the executed, uncompleted instructions. -/
  cq_iff : ∀ j < s.progLen, j ∈ s.cq ↔ (s.record j).executed = true ∧ (s.record j).completed = false
  fetch_set : ∀ j < s.progLen, (s.record j).ts.fetch ≠ unset ↔ j < s.fetchPtr
  decode_set : ∀ j < s.progLen, (s.record j).ts.decode ≠ unset ↔ j < s.fetchPtr - s.fq.length
  dispatch_set : ∀ j < s.progLen, (s.record j).ts.dispatch ≠ unset ↔ (s.record j).renamed = true
  issue_set : ∀ j < s.progLen, (s.record j).ts.issue ≠ unset ↔ (s.record j).issued = true
  complete_set : ∀ j < s.progLen, (s.record j).ts.complete ≠ unset ↔ (s.record j).completed = true
  retire_set : ∀ j < s.progLen, (s.record j).ts.retire ≠ unset ↔ (s.record j).retired = true
  /-- The recorded latency is that of the instruction's kind (R242). -/
  lat_eq : ∀ j < s.progLen, (s.record j).executed = true →
    (s.record j).lat = s.cfg.lat (s.record j).instr.kind
  /-- A run ends DONE only with every instruction retired (R136, R301). -/
  done_all : s.status = .done → s.nRetired = s.progLen

/-- The shape and the places: what keeps every stage from reading an entry that does not exist. -/
structure State.Structured (s : State) : Prop where
  shaped : s.Shaped
  placed : s.Placed

/-! ## Registers -/

/-- The four places of R350, as one list of tags. -/
def State.registerPlaces (s : State) : List Nat :=
  s.freeList ++ s.specMap ++ s.robEntries.filterMap RobEntry.oldTag ++ s.pendingFree

/-- Register conservation (R32, R350), with what it rests on: an in-flight instruction has a T and a Told
exactly when it has a destination, and T is its `pd` (R43). -/
structure State.Conserved (s : State) : Prop where
  /-- The four places partition P0, …, P(P−1). -/
  partition : s.registerPlaces.Perm (List.range s.cfg.numPhys)
  newTag_eq : ∀ e ∈ s.robEntries, e.newTag = (s.record e.inst).pd
  oldTag_iff : ∀ e ∈ s.robEntries, e.oldTag.isSome = (s.record e.inst).instr.dst.isSome
  pd_iff : ∀ j < s.numDispatched, (s.record j).pd.isSome = (s.record j).instr.dst.isSome

/-! ## Renaming and wakeup -/

/-- The maps, the tags and the readiness bits say what program order says: each source of a dispatched
instruction carries the tag of its youngest earlier writer, and is ready exactly when that writer has
completed (R34, R35, R205, R267, R284, R340). -/
structure State.Renamed (s : State) : Prop where
  specMap_eq : ∀ a < s.cfg.numArch, s.specMap[a]? = s.tagBefore a s.numDispatched
  /-- The committed map is the in-order mapping after the last retirement (R284). -/
  archMap_eq : ∀ a < s.cfg.numArch, s.archMap[a]? = s.tagBefore a s.nRetired
  oldTag_eq : ∀ e ∈ s.robEntries, ∀ a ∈ (s.record e.inst).instr.dst, e.oldTag = s.tagBefore a e.inst
  specReady_eq : ∀ a < s.cfg.numArch, ∀ p ∈ s.specMap[a]?,
    s.specReady[p]? = some (s.producerDone a s.numDispatched)
  ps1_eq : ∀ j < s.numDispatched, ∀ a ∈ (s.record j).instr.src1, (s.record j).ps1 = s.tagBefore a j
  ps2_eq : ∀ j < s.numDispatched, ∀ a ∈ (s.record j).instr.src2, (s.record j).ps2 = s.tagBefore a j
  /-- No wakeup is lost and none comes early (R267). -/
  rdy1_eq : ∀ j < s.numDispatched, ∀ a ∈ (s.record j).instr.src1, (s.record j).rdy1 = s.producerDone a j
  rdy2_eq : ∀ j < s.numDispatched, ∀ a ∈ (s.record j).instr.src2, (s.record j).rdy2 = s.producerDone a j
  /-- An absent source keeps NONE and false (R205). -/
  absent1 : ∀ j < s.numDispatched, (s.record j).instr.src1 = none →
    (s.record j).ps1 = none ∧ (s.record j).rdy1 = false
  absent2 : ∀ j < s.numDispatched, (s.record j).instr.src2 = none →
    (s.record j).ps2 = none ∧ (s.record j).rdy2 = false
  /-- What has issued had every present source ready (R231). -/
  issued_ready : ∀ j < s.progLen, (s.record j).issued = true →
    readyToExecute (s.record j).instr.src1 (s.record j).instr.src2 (s.record j) = true

/-! ## Timestamps -/

/-- Every timestamp of the record is before cycle `c`. -/
abbrev Timestamps.before (t : Timestamps) (c : Int) : Prop :=
  t.fetch < c ∧ t.decode < c ∧ t.dispatch < c ∧ t.issue < c ∧ t.execute < c ∧ t.complete < c
    ∧ t.retire < c

/-- A source of an issued instruction was produced no later than the cycle of the issue (R340). -/
abbrev State.issuedAfter (s : State) (a j : Nat) : Prop :=
  ∀ i ∈ s.lastWriter a j,
    (s.record i).ts.complete ≠ unset ∧ (s.record i).ts.complete ≤ (s.record j).ts.issue

/-- The timestamps are in order: along each instruction (R353), along the program for retirement (R285),
and between a producer and its consumers (R340); and no completion is early (R242, R261). -/
structure State.Timed (s : State) : Prop where
  monotone : ∀ j < s.progLen, (s.record j).ts.monotone
  before_horizon : ∀ j < s.progLen, (s.record j).ts.before s.horizon
  retire_order : ∀ j < s.nRetired, ∀ i < j, (s.record i).ts.retire ≤ (s.record j).ts.retire
  latency : ∀ j < s.progLen, (s.record j).completed = true →
    (s.record j).ts.execute + max 1 (s.record j).lat ≤ (s.record j).ts.complete
  raw1 : ∀ j < s.progLen, (s.record j).issued = true → ∀ a ∈ (s.record j).instr.src1, s.issuedAfter a j
  raw2 : ∀ j < s.progLen, (s.record j).issued = true → ∀ a ∈ (s.record j).instr.src2, s.issuedAfter a j

/-- Completion is exactly on time: what has completed did so `max(1, lat)` cycles after it executed, and
what waits in CQ is not overdue (R261, R354). It holds where `CAP_CQ ≤ W`. -/
structure State.OnTime (s : State) : Prop where
  exact : ∀ j < s.progLen, (s.record j).completed = true →
    (s.record j).ts.complete = (s.record j).ts.execute + max 1 (s.record j).lat
  not_overdue : ∀ j ∈ s.cq, s.horizon ≤ (s.record j).ts.execute + max 1 (s.record j).lat

/-! ## Resources and runs -/

/-- The resource conditions of the termination property (R355). -/
structure State.Resourced (s : State) : Prop where
  watchdog : s.cfg.watchdogMode = .latencyAware
  stations : ∀ r ∈ s.recs, ∃ c ∈ s.cfg.stations, c.type = r.instr.kind
  registers : (∃ r ∈ s.recs, r.instr.dst ≠ none) → s.cfg.numArch < s.cfg.numPhys

/-- Everything the claims know of a state at a cycle boundary. -/
structure State.Good (s : State) : Prop where
  structured : s.Structured
  conserved : s.Conserved
  renamed : s.Renamed
  timed : s.Timed

/-- `k` clock edges, through the host's interface. -/
def State.run (k : Nat) (s : State) : Result := Host.Core.run Sys2Proof.core k s

/-! ## Relabelling of tags (R356) -/

/-- A record with its tags renamed by `f`. -/
def InstrRecord.relabel (f : Nat → Nat) (r : InstrRecord) : InstrRecord :=
  { r with ps1 := r.ps1.map f, ps2 := r.ps2.map f, pd := r.pd.map f }

/-- A ROB entry with its tags renamed by `f`. -/
def RobEntry.relabel (f : Nat → Nat) (e : RobEntry) : RobEntry :=
  { e with newTag := e.newTag.map f, oldTag := e.oldTag.map f }

/-- The state with every tag renamed by the permutation `σ`: what the state said of register `p` it now says
of register `σ p`. `arch_ready`, which no rule reads or writes (R37), stays. -/
def State.relabel (σ : Equiv.Perm Nat) (s : State) : State :=
  { s with
    recs := s.recs.map (InstrRecord.relabel σ)
    specMap := s.specMap.map σ
    specReady := (List.range s.specReady.length).map fun p => s.specReady.getD (σ.symm p) false
    archMap := s.archMap.map σ
    freeList := s.freeList.map σ
    pendingFree := s.pendingFree.map σ
    rob := s.rob.map (RobEntry.relabel σ) }

/-- An outcome with its next state relabelled. -/
def relabelResult (σ : Equiv.Perm Nat) : Result → Result
  | .next t => .next (t.relabel σ)
  | .fault f => .fault f
  | .refused r => .refused r

end Sys2Proof.Machine
end

