-- ==== Sys2Proof/Certificates/Slice0/Obligations.lean ====
section
/-!
DEFINITION. The statements for the provers. Each docstring names the rules of spec/ a statement formalises.
Where the spec marks a rule as its own decision or inference, or a log entry of notes/assumptions fixes the
point, the docstring says so.
-/
open Sys2Proof Sys2Proof.Machine

/-! ## Descriptor words -/

/-- Decode and encode agree: the word R109 assembles from an instruction whose registers exist decodes (R103)
to that instruction. The layout is the spec's own (D17). -/
def Obligations.DecodeOfEncode : Prop :=
  ∀ (numArch : Nat) (i : Instr), numArch ≤ 256 → i.wellFormed numArch = true →
    decode numArch (encode i) = .ok i

/-- Every word that R103 accepts is the word R109 assembles from what it decodes to, and that instruction's
registers exist. So no two words decode alike. -/
def Obligations.EncodeOfDecode : Prop :=
  ∀ (numArch : Nat) (w : Word) (i : Instr), decode numArch w = .ok i →
    encode i = w ∧ i.wellFormed numArch = true

/-- R105: exactly the reserved encodings are refused: KIND = 11, RES not 000, a register field that is nonzero
while its valid bit is 0, a present register index not below A. Here by plain arithmetic on the word's
value, and by the name of the refusal for the first two. -/
def Obligations.ReservedEncodingsRefused : Prop :=
  ∀ (numArch : Nat) (w : Word),
    (w.toNat % 4 = 3 → decode numArch w = .error .reservedKind)
    ∧ (w.toNat % 4 ≠ 3 → w.toNat / 32 % 8 ≠ 0 → decode numArch w = .error .reservedBits)
    ∧ ((∃ why, decode numArch w = .error why) ↔
        (w.toNat % 4 = 3 ∨ w.toNat / 32 % 8 ≠ 0
          ∨ (w.toNat / 4 % 2 = 0 ∧ w.toNat / 256 % 256 ≠ 0)
          ∨ (w.toNat / 8 % 2 = 0 ∧ w.toNat / 65536 % 256 ≠ 0)
          ∨ (w.toNat / 16 % 2 = 0 ∧ w.toNat / 16777216 ≠ 0)
          ∨ (w.toNat / 4 % 2 = 1 ∧ numArch ≤ w.toNat / 256 % 256)
          ∨ (w.toNat / 8 % 2 = 1 ∧ numArch ≤ w.toNat / 65536 % 256)
          ∨ (w.toNat / 16 % 2 = 1 ∧ numArch ≤ w.toNat / 16777216)))

/-- R106: an accepted word is an ALU, LOAD or STORE exactly as its bits under the mask 0x000000E3 equal the
match of that instruction, and no accepted word has other bits there. -/
def Obligations.OpcodeMapSelectsKind : Prop :=
  ∀ (numArch : Nat) (w : Word) (i : Instr), decode numArch w = .ok i →
    (i.kind = .alu ↔ w &&& 0x000000E3 = 0x00000000)
    ∧ (i.kind = .load ↔ w &&& 0x000000E3 = 0x00000001)
    ∧ (i.kind = .store ↔ w &&& 0x000000E3 = 0x00000002)

/-- The six example words of R110 and V-E16 of 95_test_vectors.md decode to the instructions they stand for. -/
def Obligations.ExampleWordsDecode : Prop :=
  decode 4 0x0100001C = .ok (.alu (some 1) (some 0) (some 0))
  ∧ decode 4 0x0200011C = .ok (.alu (some 2) (some 1) (some 0))
  ∧ decode 4 0x01000015 = .ok (.load (some 1) (some 0) none)
  ∧ decode 4 0x0000020E = .ok (.store none (some 2) (some 0))
  ∧ decode 4 0x00000000 = .ok (.alu none none none)
  ∧ decode 4 0x0302011E = .ok (.store (some 3) (some 1) (some 2))
  ∧ decode 256 0x00FF0008 = .ok (.alu none none (some 255))

/-- The assembly syntax of R108 loses nothing: an instruction whose registers exist, written in it, is read
back as that instruction. How many blanks the reader admits is the model's choice (notes/assumptions/6.md);
the writer puts one after the mnemonic and one after each comma. -/
def Obligations.AssemblyReadsBack : Prop :=
  ∀ (numArch : Nat) (i : Instr), i.wellFormed numArch = true →
    readAssembly numArch (writeAssembly i) = some i

/-- R80: after program load `ProgRead(i)` is the word the host supplied at index i, and nothing at an index not
below N (R81). The image behind it is little-endian (R83, the spec's own choice D25). -/
def Obligations.ProgramStoreHoldsProgram : Prop :=
  ∀ (c : Config) (ws : List Word) (i : Nat), (State.load c ws).progRead i = ws[i]?

/-! ## The edge: what a step does before and around a cycle -/

/-- R17: a configuration outside the legal values, or a program with a descriptor that R103 refuses, has no
step, whatever else the state holds. -/
def Obligations.RefusedInputHasNoStep : Prop :=
  ∀ s : State,
    (s.cfg.legal = false → step s = .refused .illegalConfig)
    ∧ (s.cfg.legal = true → ∀ i w why, s.progRead i = some w → decode s.cfg.numArch w = .error why →
        ∃ first, step s = .refused (.refusedDescriptor first))

/-- R61 and R315: after DONE or ABORTED a clock edge changes nothing. -/
def Obligations.HaltedBlockIgnoresEdges : Prop :=
  ∀ s : State, s.admission = none → s.rst = false → s.status ≠ .running → step s = .next s

/-- R331: an edge with `rst` asserted leaves the reset state of the same configuration and program, whatever
the block was doing, also after it halted; `rst` itself is an input and stays. The reset values of
R330 that the spec does not fix in the source are its decisions D2 to D6; those of the unoccupied ROB
entries are the model's (notes/assumptions/3.md). -/
def Obligations.AssertedResetRestoresResetState : Prop :=
  ∀ (s : State) (is : List Instr), s.admission = none → s.program = .ok is → s.rst = true →
    step s = .next { State.ofReset s.cfg s.progLen s.prog is with rst := true }

/-- R302: with N = 0 the first cycle does nothing and the run ends DONE in cycle FIRST_CYCLE, under both
watchdog modes (R305). -/
def Obligations.EmptyProgramEndsDone : Prop :=
  ∀ c : Config, c.legal = true → step (State.load c []) = .next { State.load c [] with status := .done }

/-- A step runs the decoded instruction. Where the bytes at the fetch pointer decode to `i`, the step is: the
stages before fetch, then `exec i` on the state they leave, selected for fetch; then, unless it
stalled, the rest of the width, and the end of the cycle (R130, R181). -/
def Obligations.StepRunsDecodedInstruction : Prop :=
  ∀ (s u : State) (i : Instr) (n : Nat), s.performsCycle → s.cfg.width = n + 1 →
    s.fetchPtr < s.progLen →
    decode s.cfg.numArch
      (wordOfBytes (s.prog.readByte (4 * s.fetchPtr)) (s.prog.readByte (4 * s.fetchPtr + 1))
        (s.prog.readByte (4 * s.fetchPtr + 2)) (s.prog.readByte (4 * s.fetchPtr + 3))) = .ok i →
    stagesBeforeFetch s = .next u →
    step s = andThen (orStall (exec i (u.select .fetch s.fetchPtr)) (fetchLoop n)) fun v =>
      .next (cycleEnd v)

/-- The other six stages run the instruction the program's bytes decode to: what a stage hands to `exec` for
index `j` is the decoding of descriptor `j` (R103, R160). -/
def Obligations.StagesRunDecodedInstruction : Prop :=
  ∀ (s : State) (st : Stage) (j : Nat) (w : Word) (i : Instr), s.Shaped → s.progRead j = some w →
    decode s.cfg.numArch w = .ok i → present st j s = exec i (s.select st j)

/-! ## What each stage does with an instruction

Each statement holds for ALU, LOAD and STORE alike: `i` is any instruction. Its conclusion names the whole
next state, so every field it does not name, every byte of the program store among them, is as before. That an
advance ends the selection (`active := none`) is the model's choice (notes/assumptions/4.md). No hypothesis ties
`j` to the head of the queue or of the ROB, where the stage procedures take it from: what such a selection does is
the model's reading (notes/assumptions/15.md). The logs and the trace are the spec's own choices (D12, D29). -/

/-- R181: fetch of any ALU, LOAD or STORE, where FQ has room. -/
def Obligations.FetchAdvancesInstruction : Prop :=
  ∀ (i : Instr) (s : State) (j : Nat), s.active = some ⟨.fetch, j⟩ → s.fq.length < s.cfg.capFQ →
    exec i s = .next { s with
      fq := s.fq ++ [j]
      fetchPtr := s.fetchPtr + 1
      recs := s.recs.modify j fun r => { r with ts := { r.ts with fetch := s.cycle } }
      trace := s.trace ++ [⟨s.cycle, .fetch, j⟩]
      progress := true
      active := none }

/-- R183 and R184: decode of any ALU, LOAD or STORE, where DQ has room. It changes no field of the record but
`ts.decode`. That the first entry of FQ leaves whatever `j` is selected is log entry 15, and `active := none` log
entry 4 of notes/assumptions/. -/
def Obligations.DecodeAdvancesInstruction : Prop :=
  ∀ (i : Instr) (s : State) (j : Nat), s.active = some ⟨.decode, j⟩ → s.dq.length < s.cfg.capDQ →
    exec i s = .next { s with
      fq := s.fq.tail
      dq := s.dq ++ [j]
      recs := s.recs.modify j fun r => { r with ts := { r.ts with decode := s.cycle } }
      trace := s.trace ++ [⟨s.cycle, .decode, j⟩]
      progress := true
      active := none }

/-- R200, R205 to R208: dispatch of any ALU, LOAD or STORE with a destination `a`, where the ROB has a free
entry, station `k` is the free station of its kind, and the free list has head `newTag`. The sources read
the maps before the destination is renamed. -/
def Obligations.DispatchRenamesDestination : Prop :=
  ∀ (i : Instr) (s : State) (j k a newTag oldTag : Nat) (rest : List Nat),
    s.active = some ⟨.dispatch, j⟩ → s.robCount < s.cfg.robSize → s.rob.length = s.cfg.robSize →
    s.freeStation i.kind = some k → s.mapsSources i →
    i.dst = some a → s.freeList = newTag :: rest → s.specMap[a]? = some oldTag →
    newTag < s.specReady.length →
    exec i s = .next { s with
      dq := s.dq.tail
      specMap := s.specMap.set a newTag
      specReady := s.specReady.set newTag false
      freeList := rest
      rob := s.rob.set ((s.robHead + s.robCount) % s.cfg.robSize) ⟨j, some newTag, some oldTag⟩
      robCount := s.robCount + 1
      rs := s.rs.set k { busy := true, inst := some j }
      recs := s.recs.modify j fun r => { r with
        ps1 := i.src1.bind fun b => s.specMap[b]?
        ps2 := i.src2.bind fun b => s.specMap[b]?
        rdy1 := s.sourceReady i.src1
        rdy2 := s.sourceReady i.src2
        pd := some newTag
        rsIdx := some k
        renamed := true
        ts := { r.ts with dispatch := s.cycle } }
      dispOut := s.dispOut ++ [j]
      trace := s.trace ++ [⟨s.cycle, .dispatch, j⟩]
      progress := true
      active := none }

/-- R200, R203 and R205 to R208: dispatch of any ALU, LOAD or STORE without a destination takes no register and
writes no map; the free list may be empty. -/
def Obligations.DispatchWithoutDestination : Prop :=
  ∀ (i : Instr) (s : State) (j k : Nat),
    s.active = some ⟨.dispatch, j⟩ → s.robCount < s.cfg.robSize → s.rob.length = s.cfg.robSize →
    s.freeStation i.kind = some k → s.mapsSources i → i.dst = none →
    exec i s = .next { s with
      dq := s.dq.tail
      rob := s.rob.set ((s.robHead + s.robCount) % s.cfg.robSize) ⟨j, none, none⟩
      robCount := s.robCount + 1
      rs := s.rs.set k { busy := true, inst := some j }
      recs := s.recs.modify j fun r => { r with
        ps1 := i.src1.bind fun b => s.specMap[b]?
        ps2 := i.src2.bind fun b => s.specMap[b]?
        rdy1 := s.sourceReady i.src1
        rdy2 := s.sourceReady i.src2
        pd := none
        rsIdx := some k
        renamed := true
        ts := { r.ts with dispatch := s.cycle } }
      dispOut := s.dispOut ++ [j]
      trace := s.trace ++ [⟨s.cycle, .dispatch, j⟩]
      progress := true
      active := none }

/-- R207 and R208: whenever dispatch advances an instruction, with a destination or without, it writes one ROB entry
behind the occupied ones, takes a free station of the instruction's type and records it, and sets `renamed` and
`ts.dispatch`. T is the tag the record names and Told the mapping before. -/
def Obligations.DispatchAllocatesEntryAndStation : Prop :=
  ∀ (i : Instr) (s t : State) (j : Nat), s.active = some ⟨.dispatch, j⟩ → j < s.recs.length →
    exec i s = .next t → t ≠ s →
    ∃ (k : Nat) (before : Station) (r : InstrRecord),
      s.stationType k = some i.kind ∧ s.rs[k]? = some before ∧ before.busy = false
      ∧ t.rs = s.rs.set k { busy := true, inst := some j }
      ∧ (s.robHead + s.robCount) % s.cfg.robSize < s.rob.length
      ∧ t.rob = s.rob.set ((s.robHead + s.robCount) % s.cfg.robSize)
          ⟨j, r.pd, i.dst.bind fun a => s.specMap[a]?⟩
      ∧ t.robCount = s.robCount + 1 ∧ t.robHead = s.robHead
      ∧ t.recs[j]? = some r ∧ r.pd.isSome = i.dst.isSome ∧ r.rsIdx = some k
      ∧ r.renamed = true ∧ r.ts.dispatch = s.cycle

/-- R230 to R232: issue of any ALU, LOAD or STORE that has not issued, whose present sources are ready, where
XQ has room. Its station stays busy. -/
def Obligations.IssueAdvancesInstruction : Prop :=
  ∀ (i : Instr) (s : State) (j : Nat) (r : InstrRecord),
    s.active = some ⟨.issue, j⟩ → s.recs[j]? = some r → s.xq.length < s.cfg.capXQ → r.issued = false →
    (i.src1 = none ∨ r.rdy1 = true) → (i.src2 = none ∨ r.rdy2 = true) →
    exec i s = .next { s with
      xq := s.xq ++ [j]
      recs := s.recs.modify j fun r => { r with
        issued := true
        ts := { r.ts with issue := s.cycle } }
      trace := s.trace ++ [⟨s.cycle, .issue, j⟩]
      progress := true
      active := none }

/-- R230, R231 and R236: issue of any ALU, LOAD or STORE changes the state exactly when XQ has room, it has not issued,
and each present source has its own snapshot bit set. No map table enters. That XQ is bounded is the spec's own
choice (D11). -/
def Obligations.IssueReadsOwnSnapshot : Prop :=
  ∀ (i : Instr) (s : State) (j : Nat) (r : InstrRecord),
    s.active = some ⟨.issue, j⟩ → s.recs[j]? = some r →
    (exec i s ≠ .next s ↔
      s.xq.length < s.cfg.capXQ ∧ r.issued = false
        ∧ (i.src1 = none ∨ r.rdy1 = true) ∧ (i.src2 = none ∨ r.rdy2 = true))

/-- R240 to R242: execute of any ALU, LOAD or STORE held by station `k`, where CQ has room. The station is free
from now on, and the latency is that of the station's type. -/
def Obligations.ExecuteAdvancesInstruction : Prop :=
  ∀ (i : Instr) (s : State) (j k : Nat) (r : InstrRecord) (type : Kind),
    s.active = some ⟨.execute, j⟩ → s.cq.length < s.cfg.capCQ → s.recs[j]? = some r →
    r.rsIdx = some k → s.stationType k = some type →
    exec i s = .next { s with
      xq := s.xq.tail
      cq := s.cq ++ [j]
      rs := s.rs.set k { busy := false, inst := none }
      recs := s.recs.modify j fun r => { r with
        lat := s.cfg.lat type
        rsIdx := none
        ts := { r.ts with execute := s.cycle } }
      trace := s.trace ++ [⟨s.cycle, .execute, j⟩]
      progress := true
      active := none }

/-- R260 to R263: completion of any ALU, LOAD or STORE with destination tag `t`, at or after its deadline:
the readiness bit of `t` is set, the records of the instructions in busy stations are woken, and `j` leaves
CQ. What the broadcast does is the statement `BroadcastWakesMatchingSources`. The log COMP_OUT is the spec's own
choice (D12), and `active := none` log entry 4 of notes/assumptions/. -/
def Obligations.CompleteWithDestination : Prop :=
  ∀ (i : Instr) (s : State) (j t : Nat) (r : InstrRecord),
    s.active = some ⟨.complete, j⟩ → s.recs[j]? = some r → r.ts.execute + r.lat ≤ s.cycle →
    r.pd = some t → t < s.specReady.length →
    exec i s = .next { s with
      cq := s.cq.erase j
      specReady := s.specReady.set t true
      recs := (s.broadcast (some t)).recs.modify j fun r => { r with
        completed := true
        ts := { r.ts with complete := s.cycle } }
      compOut := s.compOut ++ [j]
      trace := s.trace ++ [⟨s.cycle, .complete, j⟩]
      progress := true
      active := none }

/-- R260, R261 and R264: completion of any ALU, LOAD or STORE without a destination tag broadcasts nothing. -/
def Obligations.CompleteWithoutDestination : Prop :=
  ∀ (i : Instr) (s : State) (j : Nat) (r : InstrRecord),
    s.active = some ⟨.complete, j⟩ → s.recs[j]? = some r → r.ts.execute + r.lat ≤ s.cycle →
    r.pd = none →
    exec i s = .next { s with
      cq := s.cq.erase j
      recs := s.recs.modify j fun r => { r with
        completed := true
        ts := { r.ts with complete := s.cycle } }
      compOut := s.compOut ++ [j]
      trace := s.trace ++ [⟨s.cycle, .complete, j⟩]
      progress := true
      active := none }

/-- R282, with R283 and R284: retirement of any ALU, LOAD or STORE that has completed and is at the ROB head. With a
destination `a` the committed map names T, and Told waits in the pending-release list; without one no map
and no release list changes. The ROB entry is freed, and the speculative map, its readiness, the free list and
the stations are untouched. The log RET_OUT is the spec's own choice (D12); `active := none` is log entry 4 of
notes/assumptions/, and a selected `j` that is not the instruction of the head entry is log entry 15. -/
def Obligations.RetireCommitsAndReleases : Prop :=
  (∀ (i : Instr) (s : State) (j a newTag oldTag : Nat) (r : InstrRecord) (e : RobEntry),
    s.active = some ⟨.retire, j⟩ → s.robCount ≠ 0 → s.rob[s.robHead]? = some e →
    s.recs[j]? = some r → r.completed = true →
    i.dst = some a → a < s.archMap.length → e.newTag = some newTag → e.oldTag = some oldTag →
    exec i s = .next { s with
      robHead := (s.robHead + 1) % s.cfg.robSize
      robCount := s.robCount - 1
      archMap := s.archMap.set a newTag
      pendingFree := s.pendingFree ++ [oldTag]
      nRetired := s.nRetired + 1
      recs := s.recs.modify j fun r => { r with
        retired := true
        ts := { r.ts with retire := s.cycle } }
      retOut := s.retOut ++ [j]
      trace := s.trace ++ [⟨s.cycle, .retire, j⟩]
      progress := true
      active := none })
  ∧ ∀ (i : Instr) (s : State) (j : Nat) (r : InstrRecord) (e : RobEntry),
    s.active = some ⟨.retire, j⟩ → s.robCount ≠ 0 → s.rob[s.robHead]? = some e →
    s.recs[j]? = some r → r.completed = true → i.dst = none →
    exec i s = .next { s with
      robHead := (s.robHead + 1) % s.cfg.robSize
      robCount := s.robCount - 1
      nRetired := s.nRetired + 1
      recs := s.recs.modify j fun r => { r with
        retired := true
        ts := { r.ts with retire := s.cycle } }
      retOut := s.retOut ++ [j]
      trace := s.trace ++ [⟨s.cycle, .retire, j⟩]
      progress := true
      active := none }

/-- R140 and R300: a resource that is not there is no error: the stage leaves the state as it is, for a retry in
the next cycle. A full FQ, DQ or CQ; the three preconditions of dispatch (R201 to R203); a full XQ, a source
that is not ready, or an earlier issue (R231, R236); a deadline not reached (R261); an empty ROB or a head
not completed (R281). -/
def Obligations.StallLeavesStateUnchanged : Prop :=
  ∀ (i : Instr) (s : State) (j : Nat) (r : InstrRecord), s.recs[j]? = some r →
    (s.active = some ⟨.fetch, j⟩ → s.cfg.capFQ ≤ s.fq.length → exec i s = .next s)
    ∧ (s.active = some ⟨.decode, j⟩ → s.cfg.capDQ ≤ s.dq.length → exec i s = .next s)
    ∧ (s.active = some ⟨.dispatch, j⟩ →
        (s.cfg.robSize ≤ s.robCount ∨ s.freeStation i.kind = none ∨ (i.dst ≠ none ∧ s.freeList = [])) →
        exec i s = .next s)
    ∧ (s.active = some ⟨.issue, j⟩ →
        (s.cfg.capXQ ≤ s.xq.length ∨ r.issued = true ∨ (i.src1 ≠ none ∧ r.rdy1 = false)
          ∨ (i.src2 ≠ none ∧ r.rdy2 = false)) → exec i s = .next s)
    ∧ (s.active = some ⟨.execute, j⟩ → s.cfg.capCQ ≤ s.cq.length → exec i s = .next s)
    ∧ (s.active = some ⟨.complete, j⟩ → (s.cycle : Int) < r.ts.execute + r.lat → exec i s = .next s)
    ∧ (s.active = some ⟨.retire, j⟩ →
        (s.robCount = 0 ∨ (s.robHead < s.rob.length ∧ r.completed = false)) → exec i s = .next s)

/-- R160: the kind enters where dispatch chooses the station type, and nowhere else: in every other stage the
three instructions with the same operands do the same. (The latency differs through the station, R242.) -/
def Obligations.KindEntersOnlyAtDispatch : Prop :=
  ∀ (d a b : Operand) (s : State), (∀ j, s.active ≠ some ⟨.dispatch, j⟩) →
    exec (.load d a b) s = exec (.alu d a b) s ∧ exec (.store d a b) s = exec (.alu d a b) s

/-- R80, R82 and R52: no instruction reads or writes memory: whatever stage an instruction is in, its step leaves
every byte of the program store, the program length, the configuration, the cycle number, the run
status, the committed readiness vector (R37) and the input `rst` as they were. -/
def Obligations.NoInstructionWritesMemory : Prop :=
  ∀ (i : Instr) (s t : State), exec i s = .next t →
    (∀ a, t.prog.readByte a = s.prog.readByte a) ∧ t.progLen = s.progLen ∧ t.cfg = s.cfg
    ∧ t.cycle = s.cycle ∧ t.status = s.status ∧ t.archReady = s.archReady ∧ t.rst = s.rst

/-- Who writes what (R34 to R39, R43 to R47): each table, list and pointer changes only in the stages whose rules
write it. -/
def Obligations.EachStageWritesItsOwnState : Prop :=
  ∀ (i : Instr) (s t : State) (st : Stage) (j : Nat), s.active = some ⟨st, j⟩ → exec i s = .next t →
    (st ≠ .dispatch → t.specMap = s.specMap ∧ t.freeList = s.freeList ∧ t.dispOut = s.dispOut)
    ∧ (st ≠ .dispatch → st ≠ .complete → t.specReady = s.specReady)
    ∧ (st ≠ .retire → t.archMap = s.archMap ∧ t.pendingFree = s.pendingFree ∧ t.robHead = s.robHead
        ∧ t.nRetired = s.nRetired ∧ t.retOut = s.retOut)
    ∧ (st ≠ .dispatch → t.rob = s.rob) ∧ (st ≠ .dispatch → st ≠ .retire → t.robCount = s.robCount)
    ∧ (st ≠ .dispatch → st ≠ .execute → t.rs = s.rs)
    ∧ (st ≠ .fetch → t.fetchPtr = s.fetchPtr) ∧ (st ≠ .fetch → st ≠ .decode → t.fq = s.fq)
    ∧ (st ≠ .decode → st ≠ .dispatch → t.dq = s.dq) ∧ (st ≠ .issue → st ≠ .execute → t.xq = s.xq)
    ∧ (st ≠ .execute → st ≠ .complete → t.cq = s.cq) ∧ (st ≠ .complete → t.compOut = s.compOut)
    ∧ (∀ m, m ≠ j → st ≠ .complete → t.recs[m]? = s.recs[m]?)

/-! ## The shared operations -/

/-- R202: `free_station(kind)` is the lowest index of a station of the type that is not busy, and NONE exactly
where there is none. The lowest index is the spec's own choice (D8). -/
def Obligations.FreeStationIsLowest : Prop :=
  ∀ (s : State) (kind : Kind), s.rs.length = s.cfg.stations.length →
    (∀ k, s.freeStation kind = some k ↔
      (s.stationType k = some kind ∧ (∃ r, s.rs[k]? = some r ∧ r.busy = false)
        ∧ ∀ m < k, s.stationType m = some kind → ∃ r, s.rs[m]? = some r ∧ r.busy = true))
    ∧ (s.freeStation kind = none ↔
        ∀ k r, s.rs[k]? = some r → s.stationType k = some kind → r.busy = true)

/-- R234 and R235: STATION_ORDER scans the stations in list order; OLDEST_FIRST scans every station once, the
busy ones first and in increasing order of the instruction they hold. -/
def Obligations.ScanOrderFollowsPolicy : Prop :=
  ∀ s : State,
    (s.cfg.issuePolicy = .stationOrder → s.scanOrder = List.range s.rs.length)
    ∧ (s.cfg.issuePolicy = .oldestFirst →
        s.scanOrder.Perm (List.range s.rs.length)
        ∧ ∃ busy idle, s.scanOrder = busy ++ idle
          ∧ (∀ k ∈ busy, s.stationBusy k = true) ∧ (∀ k ∈ idle, s.stationBusy k = false)
          ∧ busy.Pairwise fun k m => s.stationAge k ≤ s.stationAge m)

/-- R262: the broadcast of tag `t` sets the ready bit of a source exactly where its instruction is held by a busy
station, the source is present and its tag is `t`; it clears none and changes nothing else. The broadcast of
NONE changes nothing. -/
def Obligations.BroadcastWakesMatchingSources : Prop :=
  ∀ (s : State), s.broadcast none = s ∧ ∀ (t : Nat),
    (s.broadcast (some t)).recs.length = s.recs.length
    ∧ { s.broadcast (some t) with recs := s.recs } = s
    ∧ ∀ (j : Nat) (r : InstrRecord), s.recs[j]? = some r →
      ∃ r', (s.broadcast (some t)).recs[j]? = some r'
        ∧ { r' with rdy1 := r.rdy1, rdy2 := r.rdy2 } = r
        ∧ (r'.rdy1 = true ↔ r.rdy1 = true ∨
            ((∃ station ∈ s.rs, station.busy = true ∧ station.inst = some j)
              ∧ r.instr.src1 ≠ none ∧ r.ps1 = some t))
        ∧ (r'.rdy2 = true ↔ r.rdy2 = true ∨
            ((∃ station ∈ s.rs, station.busy = true ∧ station.inst = some j)
              ∧ r.instr.src2 ≠ none ∧ r.ps2 = some t))

/-- R265: the order of several broadcasts has no effect. -/
def Obligations.BroadcastOrderHasNoEffect : Prop :=
  ∀ (s : State) (p q : Option Nat), (s.broadcast p).broadcast q = (s.broadcast q).broadcast p

/-! ## One cycle -/

/-- R89: no cycle changes the program store or the program length; nor the configuration or the static fields of a
record, which are fixed at construction (R30). -/
def Obligations.StepKeepsProgramAndConfiguration : Prop :=
  ∀ s t : State, s.performsCycle → step s = .next t →
    t.prog = s.prog ∧ t.progLen = s.progLen ∧ (∀ i, t.progRead i = s.progRead i) ∧ t.cfg = s.cfg
    ∧ t.recs.map InstrRecord.instr = s.recs.map InstrRecord.instr

/-- R136 to R138 and R305: a cycle ends DONE exactly when every instruction has retired; otherwise it ends ABORTED
exactly when nothing advanced and (LITERAL, or CQ is empty); otherwise the block runs on and the cycle
number is one greater. A halt leaves the cycle number. The default mode is the spec's own (D14). -/
def Obligations.CycleEndsAsWatchdogSays : Prop :=
  ∀ s t : State, s.performsCycle → step s = .next t →
    (t.status = .done ↔ t.nRetired = t.progLen)
    ∧ (t.status = .aborted ↔ t.nRetired ≠ t.progLen ∧ t.progress = false
        ∧ (t.cfg.watchdogMode = .literalRule ∨ t.cq = []))
    ∧ (t.status = .running → t.cycle = s.cycle + 1) ∧ (t.status ≠ .running → t.cycle = s.cycle)

/-- R138: while the block does not halt, its cycle numbers are consecutive from FIRST_CYCLE, one for every edge, and the
next edge performs the next cycle. -/
def Obligations.CycleNumbersAreConsecutive : Prop :=
  ∀ (c : Config) (ws : List Word) (k : Nat) (t : State), (State.load c ws).admission = none →
    State.run k (State.load c ws) = .next t → t.status = .running →
    t.cycle = c.firstCycle + k ∧ t.performsCycle

/-- R135: the progress flag is set exactly when some instruction advanced in some stage, which is when the cycle
has a trace event (R306). -/
def Obligations.ProgressExactlyWhenTraced : Prop :=
  ∀ s t : State, s.performsCycle → step s = .next t → (t.progress = true ↔ t.trace ≠ [])

/-- R131 and R306: the trace of a cycle carries that cycle's number and lists its events in stage order, retire
first and fetch last. -/
def Obligations.TraceFollowsStageOrder : Prop :=
  ∀ s t : State, s.performsCycle → step s = .next t →
    (∀ e ∈ t.trace, e.cycle = s.cycle)
    ∧ t.trace.Pairwise fun e f => e.stage.rank ≤ f.stage.rank

/-- R140, R233, R280 and R361: in one cycle no stage advances more than W instructions. That issue never exceeds the
cap is the spec's own reading (D10). -/
def Obligations.StageAdvancesAtMostWidth : Prop :=
  ∀ (s t : State) (st : Stage), s.performsCycle → step s = .next t →
    (t.advancedBy st).length ≤ s.cfg.width

/-- R46: the three stage-output logs hold exactly what dispatch, complete and retire advanced in this cycle, in
order, and so at most W entries. -/
def Obligations.LogsHoldThisCyclesAdvances : Prop :=
  ∀ s t : State, s.performsCycle → step s = .next t →
    t.dispOut = t.advancedBy .dispatch ∧ t.compOut = t.advancedBy .complete
    ∧ t.retOut = t.advancedBy .retire ∧ t.dispOut.length ≤ s.cfg.width
    ∧ t.compOut.length ≤ s.cfg.width ∧ t.retOut.length ≤ s.cfg.width

/-- R47, R166, R181 and R182: fetch takes consecutive instructions from the fetch pointer on, in program order, and
moves the pointer past them and no further; once the pointer is N, no cycle fetches. -/
def Obligations.FetchPointerCountsFetches : Prop :=
  ∀ s t : State, s.performsCycle → step s = .next t →
    t.advancedBy .fetch = List.range' s.fetchPtr (t.fetchPtr - s.fetchPtr) ∧ s.fetchPtr ≤ t.fetchPtr
    ∧ (s.fetchPtr ≤ s.progLen → t.fetchPtr ≤ s.progLen)
    ∧ (s.progLen ≤ s.fetchPtr → t.fetchPtr = s.fetchPtr ∧ t.advancedBy .fetch = [])

/-- R39, R132, R283 and R343: the free list a cycle leaves is what was free or pending before the cycle, less what
dispatch took from its head: no register released in this cycle is in it. The registers released in
this cycle are pending, one for each retirement with a destination, in retirement order. The FIFO order is the
spec's own (D5). -/
def Obligations.ReleasedRegistersWaitOneCycle : Prop :=
  ∀ s t : State, s.Structured → s.Conserved → s.performsCycle → step s = .next t →
    (∃ taken, taken ++ t.freeList = s.freeList ++ s.pendingFree
      ∧ taken.length = ((t.advancedBy .dispatch).filter fun j => (s.record j).instr.dst.isSome).length)
    ∧ t.pendingFree = (s.robEntries.take (t.advancedBy .retire).length).filterMap RobEntry.oldTag

/-- R134: an instruction advances in at most one stage in a cycle. -/
def Obligations.OneAdvancePerInstructionPerCycle : Prop :=
  ∀ s t : State, s.Structured → s.Timed → s.performsCycle → step s = .next t →
    (t.trace.map TraceEvent.index).Nodup

/-! ## Invariants -/

/-- The state right after reset is good: R330 read by the invariants. -/
def Obligations.ResetStateIsGood : Prop := State.reset.Good

/-- Every legal configuration with every program that load accepts starts in a good state (R330, R332), and
completion is on time in it. -/
def Obligations.LoadedProgramIsGood : Prop :=
  ∀ (c : Config) (ws : List Word), (State.load c ws).admission = none →
    (State.load c ws).Good ∧ (State.load c ws).OnTime

/-- Every step keeps the shape of the state and every instruction in its place: ROB, DQ and FQ hold the program in
order (R86, R285), stations and back-references agree (R40, R44), and the flags, queues and timestamps
of every record agree (R40 to R45). -/
def Obligations.StepKeepsStructure : Prop :=
  ∀ s t : State, s.Structured → step s = .next t → t.Structured

/-- Register conservation (R350), which the spec marks as its own inference: every step keeps the free list, the
speculative map, the Told registers of the ROB and the pending-release list a partition of all physical
registers. -/
def Obligations.StepConservesRegisters : Prop :=
  ∀ s t : State, s.Structured → s.Conserved → step s = .next t → t.Conserved

/-- At most one writer (R351): no two architectural registers are mapped to one physical register, and none is
mapped to one that is free, pending or the Told of an instruction in flight. -/
def Obligations.SpeculativeMapIsInjective : Prop :=
  ∀ s : State, s.Conserved →
    s.specMap.Nodup
    ∧ ∀ p ∈ s.specMap, p ∉ s.freeList ∧ p ∉ s.pendingFree ∧ ∀ e ∈ s.robEntries, e.oldTag ≠ some p

/-- Every step keeps renaming right: each source of a dispatched instruction names the register of its youngest
earlier writer and is marked ready exactly when that writer has completed, so that no wakeup is lost and
none is early (R267); the committed map is the in-order mapping of the retired instructions (R284). The
spec marks R267, R284 and R352 as its own inferences. -/
def Obligations.StepKeepsRenaming : Prop :=
  ∀ s t : State, s.Structured → s.Conserved → s.Renamed → step s = .next t → t.Renamed

/-- Every step keeps the timestamps in order: strictly along each instruction (R353), along the program for
retirement (R285), no completion before its latency (R354), and no issue before the completion of a
producer (R340). The spec marks these as its own inferences. -/
def Obligations.StepKeepsTimestampOrder : Prop :=
  ∀ s t : State, s.Good → step s = .next t → t.Timed

/-- With CAP_CQ at most W, every step keeps completion exactly `max(1, lat)` cycles after execution (R261, R354). -/
def Obligations.StepKeepsCompletionOnTime : Prop :=
  ∀ s t : State, s.Good → s.cfg.capCQ ≤ s.cfg.width → s.OnTime → step s = .next t → t.OnTime

/-- Every run of a legal configuration and an accepted program goes on for ever without a fault or a refusal, and
every state it reaches is good (R300, R350 to R353). -/
def Obligations.EveryRunStaysGood : Prop :=
  ∀ (c : Config) (ws : List Word) (k : Nat), (State.load c ws).admission = none →
    ∃ t, State.run k (State.load c ws) = .next t ∧ t.Good

/-! ## The machine as a whole -/

/-- R300: no instruction and no stage raises an exception: in a state where every instruction is in its place, the
registers are conserved and the tags are those program order gives, the step always answers a next state. The
renaming is needed: it alone keeps the tag of an instruction in flight below P. -/
def Obligations.NoStepStops : Prop :=
  ∀ s : State, s.Structured → s.Conserved → s.Renamed → ∃ t, step s = .next t

/-- The heart of termination (R355): with the LATENCY_AWARE watchdog, a station for every kind the program uses and
a spare register if anything has a destination, no cycle aborts. -/
def Obligations.NoAbortWithResources : Prop :=
  ∀ s t : State, s.Good → s.Resourced → s.performsCycle → step s = .next t → t.status ≠ .aborted

/-- R355: under those conditions the run ends DONE in finitely many cycles. -/
def Obligations.RunEndsDone : Prop :=
  ∀ s : State, s.Good → s.Resourced → s.performsCycle →
    ∃ k t, State.run k s = .next t ∧ t.status = .done

/-- R139: under LATENCY_AWARE an abort is a permanent stall: a block that aborted and were made to run on would
perform another cycle without progress and abort again, changing nothing. -/
def Obligations.AbortIsPermanent : Prop :=
  ∀ s t : State, s.active = none → s.performsCycle → s.cfg.watchdogMode = .latencyAware →
    step s = .next t → t.status = .aborted →
    step { t with status := .running, cycle := t.cycle + 1 } = .next { t with cycle := t.cycle + 1 }

/-- R301: a cycle that finds every instruction retired ends DONE; and in a DONE state the report (R307) is valid, has a
row for every instruction, and every one of its seven timestamps is set. -/
def Obligations.DoneReportIsComplete : Prop :=
  (∀ s t : State, s.performsCycle → step s = .next t → t.nRetired = t.progLen → t.status = .done)
  ∧ ∀ s : State, s.Structured → s.status = .done →
    ∃ rows, s.report = some rows ∧ rows.length = s.progLen
      ∧ ∀ row ∈ rows, row.length = 7 ∧ ∀ c ∈ row, c ≠ unset

/-- R345, which the spec marks as its own inference: a consumer issues at least `1 + max(1, lat)` cycles after the
producer of a source issued. -/
def Obligations.ConsumerIssuesAfterProducer : Prop :=
  ∀ (s : State) (i j a : Nat), s.Good → j < s.progLen → (s.record j).issued = true →
    ((s.record j).instr.src1 = some a ∨ (s.record j).instr.src2 = some a) →
    s.lastWriter a j = some i →
    (s.record i).ts.issue + 1 + max 1 (s.cfg.lat (s.record i).instr.kind) ≤ (s.record j).ts.issue

/-- R356: a consistent renaming of the tags maps one cycle onto another, stage for stage: relabelling the physical
registers by any permutation that keeps P0, …, P(P−1) commutes with a step, stops included. -/
def Obligations.RelabellingCommutesWithStep : Prop :=
  ∀ (σ : Equiv.Perm Nat) (s : State), (∀ p, σ p < s.cfg.numPhys ↔ p < s.cfg.numPhys) →
    s.specReady.length = s.cfg.numPhys → s.performsCycle →
    step (s.relabel σ) = relabelResult σ (step s)

/-- R356, which the spec marks as its own inference: the timestamps of a run do not depend on the order of the free
list. Two runs of one configuration and program that differ only in the order of the initial free list have the
same status, cycle and timestamps after any number of edges. -/
def Obligations.ReportIgnoresFreeListOrder : Prop :=
  ∀ (c : Config) (ws : List Word) (order : List Nat) (k : Nat) (t : State),
    order.Perm (State.load c ws).freeList → State.run k (State.load c ws) = .next t →
    ∃ u, State.run k { State.load c ws with freeList := order } = .next u
      ∧ u.status = t.status ∧ u.cycle = t.cycle
      ∧ u.recs.map InstrRecord.ts = t.recs.map InstrRecord.ts

/-- R304 and R307: the dump is the whole state of the aborting cycle, with that cycle's number, and there is none
otherwise. While the block runs there is no report; once it has halted, DONE or ABORTED, the report has one row for
each instruction in program order, its seven timestamps in stage order, and an entry is UNSET, which is -1,
exactly where the instruction has not reached the stage. The contents of the dump and the report at an abort are
the spec's own choice (D28), -1 is its choice D3, and that the dump is all of `State` is log entry 14 of
notes/assumptions/. -/
def Obligations.HaltedOutputsShowTheRun : Prop :=
  (∀ s t : State, s.performsCycle → step s = .next t → t.status = .aborted →
    t.dump = some t ∧ t.cycle = s.cycle)
  ∧ (∀ s : State, s.status ≠ .aborted → s.dump = none)
  ∧ (∀ s : State, s.status = .running → s.report = none)
  ∧ ∀ s : State, s.Structured → s.status ≠ .running →
    ∃ rows, s.report = some rows ∧ rows.length = s.progLen ∧ ∀ (j : Nat) (r : InstrRecord), s.recs[j]? = some r →
      rows[j]? = some [r.ts.fetch, r.ts.decode, r.ts.dispatch, r.ts.issue, r.ts.execute, r.ts.complete, r.ts.retire]
      ∧ (r.ts.fetch = -1 ↔ s.fetchPtr ≤ j)
      ∧ (r.ts.decode = -1 ↔ s.fetchPtr ≤ j ∨ j ∈ s.fq)
      ∧ (r.ts.dispatch = -1 ↔ r.renamed = false)
      ∧ (r.ts.issue = -1 ↔ r.issued = false)
      ∧ (r.ts.execute = -1 ↔ j ∉ s.cq ∧ r.completed = false)
      ∧ (r.ts.complete = -1 ↔ r.completed = false)
      ∧ (r.ts.retire = -1 ↔ s.nRetired ≤ j)
end

