-- ==== Sys2Proof/Laws/Operands.lean ====
section
/-!
SUPPORT. What the shared operations of renaming, allocation, wakeup and commitment can answer, once each.
-/
namespace Sys2Proof.Machine

/-- A source that is renamed is absent, or mapped to a tag with a readiness bit (R205). -/
theorem State.renameSource_eq_ok {s : State} {o : Operand} {c : Snapshot} :
    s.renameSource o = .ok c ↔
      (o = none ∧ c = (none, false))
        ∨ ∃ a p r, o = some a ∧ s.specMap[a]? = some p ∧ s.specReady[p]? = some r ∧ c = (some p, r) := by
  constructor
  · intro h
    unfold State.renameSource at h
    split at h
    · exact .inl ⟨rfl, by simpa using h.symm⟩
    · split at h
      · cases h
      · split at h
        · cases h
        · exact .inr ⟨_, _, _, rfl, ‹_›, ‹_›, by simpa using h.symm⟩
  · rintro (⟨rfl, rfl⟩ | ⟨a, p, r, rfl, hm, hr, rfl⟩)
    · rfl
    · simp [State.renameSource, hm, hr]

/-- A destination that is renamed is absent and changes nothing, or takes the head of the free list
(R206). -/
theorem State.renameDestination_eq_ok {s : State} {o : Operand} {n : Renaming} :
    s.renameDestination o = .ok n ↔
      (o = none ∧ n = ⟨s, none, none⟩)
        ∨ ∃ a t rest old, o = some a ∧ s.freeList = t :: rest ∧ s.specMap[a]? = some old
            ∧ t < s.specReady.length
            ∧ n = ⟨{ s with
                      freeList := rest
                      specReady := s.specReady.set t false
                      specMap := s.specMap.set a t }, some t, some old⟩ := by
  constructor
  · intro h
    unfold State.renameDestination at h
    split at h
    · exact .inl ⟨rfl, by simpa using h.symm⟩
    · split at h
      · cases h
      · split at h
        · cases h
        · split at h
          · exact .inr ⟨_, _, _, _, rfl, ‹_›, ‹_›, ‹_›, by simpa using h.symm⟩
          · cases h
  · rintro (⟨rfl, rfl⟩ | ⟨a, t, rest, old, rfl, hf, hm, ht, rfl⟩)
    · rfl
    · simp [State.renameDestination, hf, hm, ht]

/-- The entry and the station of an allocation (R207). -/
theorem State.allocate_eq_ok {s t : State} {j k : Nat} {p q : Option Nat} :
    s.allocate j k p q = .ok t ↔
      s.robSlot s.robCount < s.rob.length
        ∧ t = { s with
                rob := s.rob.set (s.robSlot s.robCount) ⟨j, p, q⟩
                robCount := s.robCount + 1
                rs := s.rs.set k { busy := true, inst := some j } } := by
  unfold State.allocate
  by_cases h : s.robSlot s.robCount < s.rob.length <;> simp [h, eq_comm]

/-- The readiness bit that a completion sets (R263). -/
theorem State.markReady_eq_ok {s t : State} {o : Option Nat} :
    s.markReady o = .ok t ↔
      (o = none ∧ t = s)
        ∨ ∃ p, o = some p ∧ p < s.specReady.length ∧ t = { s with specReady := s.specReady.set p true } := by
  cases o with
  | none => simp [State.markReady, eq_comm]
  | some p => by_cases h : p < s.specReady.length <;> simp [State.markReady, h, eq_comm]

/-- What a retirement commits and releases (R283, R284). -/
theorem State.commit_eq_ok {s t : State} {d : Operand} {e : RobEntry} :
    s.commit d e = .ok t ↔
      (d = none ∧ t = s)
        ∨ ∃ a p old, d = some a ∧ e.newTag = some p ∧ e.oldTag = some old ∧ a < s.archMap.length
            ∧ t = { s with archMap := s.archMap.set a p, pendingFree := s.pendingFree ++ [old] } := by
  cases d with
  | none => simp [State.commit, eq_comm]
  | some a =>
    unfold State.commit
    cases hp : e.newTag with
    | none => simp
    | some p =>
      cases ho : e.oldTag with
      | none => simp
      | some old => by_cases h : a < s.archMap.length <;> simp [h, eq_comm]

/-- The ready condition reads the bits of the present sources only (R231). -/
theorem readyToExecute_eq_true {a b : Operand} {r : InstrRecord} :
    readyToExecute a b r = true ↔ (a = none ∨ r.rdy1 = true) ∧ (b = none ∨ r.rdy2 = true) := by
  simp [readyToExecute]

/-- The preconditions of dispatch, when they hold (R201 to R203). -/
theorem State.dispatchStation_eq_some {s : State} {kind : Kind} {d : Operand} {k : Nat} :
    s.dispatchStation kind d = some k ↔
      s.robCount < s.cfg.robSize ∧ s.freeStation kind = some k ∧ (d = none ∨ s.freeList ≠ []) := by
  unfold State.dispatchStation
  by_cases h : s.cfg.robSize ≤ s.robCount
  · simp only [h, if_true, reduceCtorEq, false_iff]
    omega
  · have h' : s.robCount < s.cfg.robSize := by omega
    cases hk : s.freeStation kind with
    | none => simp [h]
    | some m =>
      cases d <;> cases hf : s.freeList <;> simp [h, h', eq_comm]

/-- Waking records changes neither their number nor anything but the two ready bits. -/
@[simp] theorem wakeAll_length (t : Nat) (js : List Nat) (recs : List InstrRecord) :
    (wakeAll t js recs).length = recs.length := by
  induction js generalizing recs with
  | nil => rfl
  | cons j js ih => simp [wakeAll, ih]

/-- A free station that is found is at a place of both lists, of the type, and not busy (R202). -/
theorem findFree_eq_some {kind : Kind} {cs : List StationSpec} {rs : List Station} {n k : Nat}
    (h : findFree kind cs rs n = some k) :
    ∃ m c r, k = n + m ∧ cs[m]? = some c ∧ rs[m]? = some r ∧ c.type = kind ∧ r.busy = false := by
  induction cs generalizing rs n with
  | nil => simp [findFree] at h
  | cons c cs ih =>
    cases rs with
    | nil => simp [findFree] at h
    | cons r rs =>
      unfold findFree at h
      by_cases hc : c.type = kind ∧ r.busy = false
      · rw [if_pos hc] at h
        cases h
        exact ⟨0, c, r, rfl, rfl, rfl, hc.1, hc.2⟩
      · rw [if_neg hc] at h
        obtain ⟨m, c', r', hk, h1, h2, h3, h4⟩ := ih h
        exact ⟨m + 1, c', r', by omega, by simpa using h1, by simpa using h2, h3, h4⟩

/-- The station that dispatch takes (R202). -/
theorem State.freeStation_eq_some {s : State} {kind : Kind} {k : Nat} (h : s.freeStation kind = some k) :
    s.stationType k = some kind ∧ ∃ r, s.rs[k]? = some r ∧ r.busy = false := by
  obtain ⟨m, c, r, hk, h1, h2, h3, h4⟩ := findFree_eq_some h
  simp only [Nat.zero_add] at hk
  subst hk
  exact ⟨by simp [State.stationType, h1, h3], r, h2, h4⟩

end Sys2Proof.Machine
end

