-- ==== Sys2Proof/Laws/State.lean ====
section
/-!
SUPPORT. What each update of the state leaves of each field, once, so that no proof unfolds an update.
-/
namespace Sys2Proof.Machine

/-! ## Selecting an instruction -/

@[simp] theorem State.select_cfg (s : State) (st : Stage) (j : Nat) :
    (s.select st j).cfg = s.cfg := rfl
@[simp] theorem State.select_progLen (s : State) (st : Stage) (j : Nat) :
    (s.select st j).progLen = s.progLen := rfl
@[simp] theorem State.select_prog (s : State) (st : Stage) (j : Nat) :
    (s.select st j).prog = s.prog := rfl
@[simp] theorem State.select_recs (s : State) (st : Stage) (j : Nat) :
    (s.select st j).recs = s.recs := rfl
@[simp] theorem State.select_cycle (s : State) (st : Stage) (j : Nat) :
    (s.select st j).cycle = s.cycle := rfl
@[simp] theorem State.select_status (s : State) (st : Stage) (j : Nat) :
    (s.select st j).status = s.status := rfl
@[simp] theorem State.select_progress (s : State) (st : Stage) (j : Nat) :
    (s.select st j).progress = s.progress := rfl
@[simp] theorem State.select_fetchPtr (s : State) (st : Stage) (j : Nat) :
    (s.select st j).fetchPtr = s.fetchPtr := rfl
@[simp] theorem State.select_fq (s : State) (st : Stage) (j : Nat) :
    (s.select st j).fq = s.fq := rfl
@[simp] theorem State.select_dq (s : State) (st : Stage) (j : Nat) :
    (s.select st j).dq = s.dq := rfl
@[simp] theorem State.select_xq (s : State) (st : Stage) (j : Nat) :
    (s.select st j).xq = s.xq := rfl
@[simp] theorem State.select_cq (s : State) (st : Stage) (j : Nat) :
    (s.select st j).cq = s.cq := rfl
@[simp] theorem State.select_dispOut (s : State) (st : Stage) (j : Nat) :
    (s.select st j).dispOut = s.dispOut := rfl
@[simp] theorem State.select_compOut (s : State) (st : Stage) (j : Nat) :
    (s.select st j).compOut = s.compOut := rfl
@[simp] theorem State.select_retOut (s : State) (st : Stage) (j : Nat) :
    (s.select st j).retOut = s.retOut := rfl
@[simp] theorem State.select_specMap (s : State) (st : Stage) (j : Nat) :
    (s.select st j).specMap = s.specMap := rfl
@[simp] theorem State.select_specReady (s : State) (st : Stage) (j : Nat) :
    (s.select st j).specReady = s.specReady := rfl
@[simp] theorem State.select_archMap (s : State) (st : Stage) (j : Nat) :
    (s.select st j).archMap = s.archMap := rfl
@[simp] theorem State.select_archReady (s : State) (st : Stage) (j : Nat) :
    (s.select st j).archReady = s.archReady := rfl
@[simp] theorem State.select_freeList (s : State) (st : Stage) (j : Nat) :
    (s.select st j).freeList = s.freeList := rfl
@[simp] theorem State.select_pendingFree (s : State) (st : Stage) (j : Nat) :
    (s.select st j).pendingFree = s.pendingFree := rfl
@[simp] theorem State.select_rob (s : State) (st : Stage) (j : Nat) :
    (s.select st j).rob = s.rob := rfl
@[simp] theorem State.select_robHead (s : State) (st : Stage) (j : Nat) :
    (s.select st j).robHead = s.robHead := rfl
@[simp] theorem State.select_robCount (s : State) (st : Stage) (j : Nat) :
    (s.select st j).robCount = s.robCount := rfl
@[simp] theorem State.select_rs (s : State) (st : Stage) (j : Nat) :
    (s.select st j).rs = s.rs := rfl
@[simp] theorem State.select_nRetired (s : State) (st : Stage) (j : Nat) :
    (s.select st j).nRetired = s.nRetired := rfl
@[simp] theorem State.select_trace (s : State) (st : Stage) (j : Nat) :
    (s.select st j).trace = s.trace := rfl
@[simp] theorem State.select_rst (s : State) (st : Stage) (j : Nat) :
    (s.select st j).rst = s.rst := rfl
@[simp] theorem State.select_active (s : State) (st : Stage) (j : Nat) :
    (s.select st j).active = some ⟨st, j⟩ := rfl

/-! ## Ending a selection -/

@[simp] theorem State.deselect_cfg (s : State) :
    (s.deselect).cfg = s.cfg := rfl
@[simp] theorem State.deselect_progLen (s : State) :
    (s.deselect).progLen = s.progLen := rfl
@[simp] theorem State.deselect_prog (s : State) :
    (s.deselect).prog = s.prog := rfl
@[simp] theorem State.deselect_recs (s : State) :
    (s.deselect).recs = s.recs := rfl
@[simp] theorem State.deselect_cycle (s : State) :
    (s.deselect).cycle = s.cycle := rfl
@[simp] theorem State.deselect_status (s : State) :
    (s.deselect).status = s.status := rfl
@[simp] theorem State.deselect_progress (s : State) :
    (s.deselect).progress = s.progress := rfl
@[simp] theorem State.deselect_fetchPtr (s : State) :
    (s.deselect).fetchPtr = s.fetchPtr := rfl
@[simp] theorem State.deselect_fq (s : State) :
    (s.deselect).fq = s.fq := rfl
@[simp] theorem State.deselect_dq (s : State) :
    (s.deselect).dq = s.dq := rfl
@[simp] theorem State.deselect_xq (s : State) :
    (s.deselect).xq = s.xq := rfl
@[simp] theorem State.deselect_cq (s : State) :
    (s.deselect).cq = s.cq := rfl
@[simp] theorem State.deselect_dispOut (s : State) :
    (s.deselect).dispOut = s.dispOut := rfl
@[simp] theorem State.deselect_compOut (s : State) :
    (s.deselect).compOut = s.compOut := rfl
@[simp] theorem State.deselect_retOut (s : State) :
    (s.deselect).retOut = s.retOut := rfl
@[simp] theorem State.deselect_specMap (s : State) :
    (s.deselect).specMap = s.specMap := rfl
@[simp] theorem State.deselect_specReady (s : State) :
    (s.deselect).specReady = s.specReady := rfl
@[simp] theorem State.deselect_archMap (s : State) :
    (s.deselect).archMap = s.archMap := rfl
@[simp] theorem State.deselect_archReady (s : State) :
    (s.deselect).archReady = s.archReady := rfl
@[simp] theorem State.deselect_freeList (s : State) :
    (s.deselect).freeList = s.freeList := rfl
@[simp] theorem State.deselect_pendingFree (s : State) :
    (s.deselect).pendingFree = s.pendingFree := rfl
@[simp] theorem State.deselect_rob (s : State) :
    (s.deselect).rob = s.rob := rfl
@[simp] theorem State.deselect_robHead (s : State) :
    (s.deselect).robHead = s.robHead := rfl
@[simp] theorem State.deselect_robCount (s : State) :
    (s.deselect).robCount = s.robCount := rfl
@[simp] theorem State.deselect_rs (s : State) :
    (s.deselect).rs = s.rs := rfl
@[simp] theorem State.deselect_nRetired (s : State) :
    (s.deselect).nRetired = s.nRetired := rfl
@[simp] theorem State.deselect_trace (s : State) :
    (s.deselect).trace = s.trace := rfl
@[simp] theorem State.deselect_rst (s : State) :
    (s.deselect).rst = s.rst := rfl
@[simp] theorem State.deselect_active (s : State) :
    (s.deselect).active = none := rfl

/-! ## Changing a record -/

@[simp] theorem State.updateRecord_cfg (s : State) (j : Nat) (f : InstrRecord → InstrRecord) :
    (s.updateRecord j f).cfg = s.cfg := rfl
@[simp] theorem State.updateRecord_progLen (s : State) (j : Nat) (f : InstrRecord → InstrRecord) :
    (s.updateRecord j f).progLen = s.progLen := rfl
@[simp] theorem State.updateRecord_prog (s : State) (j : Nat) (f : InstrRecord → InstrRecord) :
    (s.updateRecord j f).prog = s.prog := rfl
@[simp] theorem State.updateRecord_recs (s : State) (j : Nat) (f : InstrRecord → InstrRecord) :
    (s.updateRecord j f).recs = s.recs.modify j f := rfl
@[simp] theorem State.updateRecord_cycle (s : State) (j : Nat) (f : InstrRecord → InstrRecord) :
    (s.updateRecord j f).cycle = s.cycle := rfl
@[simp] theorem State.updateRecord_status (s : State) (j : Nat) (f : InstrRecord → InstrRecord) :
    (s.updateRecord j f).status = s.status := rfl
@[simp] theorem State.updateRecord_progress (s : State) (j : Nat) (f : InstrRecord → InstrRecord) :
    (s.updateRecord j f).progress = s.progress := rfl
@[simp] theorem State.updateRecord_fetchPtr (s : State) (j : Nat) (f : InstrRecord → InstrRecord) :
    (s.updateRecord j f).fetchPtr = s.fetchPtr := rfl
@[simp] theorem State.updateRecord_fq (s : State) (j : Nat) (f : InstrRecord → InstrRecord) :
    (s.updateRecord j f).fq = s.fq := rfl
@[simp] theorem State.updateRecord_dq (s : State) (j : Nat) (f : InstrRecord → InstrRecord) :
    (s.updateRecord j f).dq = s.dq := rfl
@[simp] theorem State.updateRecord_xq (s : State) (j : Nat) (f : InstrRecord → InstrRecord) :
    (s.updateRecord j f).xq = s.xq := rfl
@[simp] theorem State.updateRecord_cq (s : State) (j : Nat) (f : InstrRecord → InstrRecord) :
    (s.updateRecord j f).cq = s.cq := rfl
@[simp] theorem State.updateRecord_dispOut (s : State) (j : Nat) (f : InstrRecord → InstrRecord) :
    (s.updateRecord j f).dispOut = s.dispOut := rfl
@[simp] theorem State.updateRecord_compOut (s : State) (j : Nat) (f : InstrRecord → InstrRecord) :
    (s.updateRecord j f).compOut = s.compOut := rfl
@[simp] theorem State.updateRecord_retOut (s : State) (j : Nat) (f : InstrRecord → InstrRecord) :
    (s.updateRecord j f).retOut = s.retOut := rfl
@[simp] theorem State.updateRecord_specMap (s : State) (j : Nat) (f : InstrRecord → InstrRecord) :
    (s.updateRecord j f).specMap = s.specMap := rfl
@[simp] theorem State.updateRecord_specReady (s : State) (j : Nat) (f : InstrRecord → InstrRecord) :
    (s.updateRecord j f).specReady = s.specReady := rfl
@[simp] theorem State.updateRecord_archMap (s : State) (j : Nat) (f : InstrRecord → InstrRecord) :
    (s.updateRecord j f).archMap = s.archMap := rfl
@[simp] theorem State.updateRecord_archReady (s : State) (j : Nat) (f : InstrRecord → InstrRecord) :
    (s.updateRecord j f).archReady = s.archReady := rfl
@[simp] theorem State.updateRecord_freeList (s : State) (j : Nat) (f : InstrRecord → InstrRecord) :
    (s.updateRecord j f).freeList = s.freeList := rfl
@[simp] theorem State.updateRecord_pendingFree (s : State) (j : Nat) (f : InstrRecord → InstrRecord) :
    (s.updateRecord j f).pendingFree = s.pendingFree := rfl
@[simp] theorem State.updateRecord_rob (s : State) (j : Nat) (f : InstrRecord → InstrRecord) :
    (s.updateRecord j f).rob = s.rob := rfl
@[simp] theorem State.updateRecord_robHead (s : State) (j : Nat) (f : InstrRecord → InstrRecord) :
    (s.updateRecord j f).robHead = s.robHead := rfl
@[simp] theorem State.updateRecord_robCount (s : State) (j : Nat) (f : InstrRecord → InstrRecord) :
    (s.updateRecord j f).robCount = s.robCount := rfl
@[simp] theorem State.updateRecord_rs (s : State) (j : Nat) (f : InstrRecord → InstrRecord) :
    (s.updateRecord j f).rs = s.rs := rfl
@[simp] theorem State.updateRecord_nRetired (s : State) (j : Nat) (f : InstrRecord → InstrRecord) :
    (s.updateRecord j f).nRetired = s.nRetired := rfl
@[simp] theorem State.updateRecord_trace (s : State) (j : Nat) (f : InstrRecord → InstrRecord) :
    (s.updateRecord j f).trace = s.trace := rfl
@[simp] theorem State.updateRecord_rst (s : State) (j : Nat) (f : InstrRecord → InstrRecord) :
    (s.updateRecord j f).rst = s.rst := rfl
@[simp] theorem State.updateRecord_active (s : State) (j : Nat) (f : InstrRecord → InstrRecord) :
    (s.updateRecord j f).active = s.active := rfl

/-! ## Advancing an instruction -/

@[simp] theorem State.advanced_cfg (s : State) (st : Stage) (j : Nat) :
    (s.advanced st j).cfg = s.cfg := rfl
@[simp] theorem State.advanced_progLen (s : State) (st : Stage) (j : Nat) :
    (s.advanced st j).progLen = s.progLen := rfl
@[simp] theorem State.advanced_prog (s : State) (st : Stage) (j : Nat) :
    (s.advanced st j).prog = s.prog := rfl
@[simp] theorem State.advanced_recs (s : State) (st : Stage) (j : Nat) :
    (s.advanced st j).recs = s.recs.modify j fun r => { r with ts := r.ts.set s.cycle st } := rfl
@[simp] theorem State.advanced_cycle (s : State) (st : Stage) (j : Nat) :
    (s.advanced st j).cycle = s.cycle := rfl
@[simp] theorem State.advanced_status (s : State) (st : Stage) (j : Nat) :
    (s.advanced st j).status = s.status := rfl
@[simp] theorem State.advanced_progress (s : State) (st : Stage) (j : Nat) :
    (s.advanced st j).progress = true := rfl
@[simp] theorem State.advanced_fetchPtr (s : State) (st : Stage) (j : Nat) :
    (s.advanced st j).fetchPtr = s.fetchPtr := rfl
@[simp] theorem State.advanced_fq (s : State) (st : Stage) (j : Nat) :
    (s.advanced st j).fq = s.fq := rfl
@[simp] theorem State.advanced_dq (s : State) (st : Stage) (j : Nat) :
    (s.advanced st j).dq = s.dq := rfl
@[simp] theorem State.advanced_xq (s : State) (st : Stage) (j : Nat) :
    (s.advanced st j).xq = s.xq := rfl
@[simp] theorem State.advanced_cq (s : State) (st : Stage) (j : Nat) :
    (s.advanced st j).cq = s.cq := rfl
@[simp] theorem State.advanced_dispOut (s : State) (st : Stage) (j : Nat) :
    (s.advanced st j).dispOut = s.dispOut := rfl
@[simp] theorem State.advanced_compOut (s : State) (st : Stage) (j : Nat) :
    (s.advanced st j).compOut = s.compOut := rfl
@[simp] theorem State.advanced_retOut (s : State) (st : Stage) (j : Nat) :
    (s.advanced st j).retOut = s.retOut := rfl
@[simp] theorem State.advanced_specMap (s : State) (st : Stage) (j : Nat) :
    (s.advanced st j).specMap = s.specMap := rfl
@[simp] theorem State.advanced_specReady (s : State) (st : Stage) (j : Nat) :
    (s.advanced st j).specReady = s.specReady := rfl
@[simp] theorem State.advanced_archMap (s : State) (st : Stage) (j : Nat) :
    (s.advanced st j).archMap = s.archMap := rfl
@[simp] theorem State.advanced_archReady (s : State) (st : Stage) (j : Nat) :
    (s.advanced st j).archReady = s.archReady := rfl
@[simp] theorem State.advanced_freeList (s : State) (st : Stage) (j : Nat) :
    (s.advanced st j).freeList = s.freeList := rfl
@[simp] theorem State.advanced_pendingFree (s : State) (st : Stage) (j : Nat) :
    (s.advanced st j).pendingFree = s.pendingFree := rfl
@[simp] theorem State.advanced_rob (s : State) (st : Stage) (j : Nat) :
    (s.advanced st j).rob = s.rob := rfl
@[simp] theorem State.advanced_robHead (s : State) (st : Stage) (j : Nat) :
    (s.advanced st j).robHead = s.robHead := rfl
@[simp] theorem State.advanced_robCount (s : State) (st : Stage) (j : Nat) :
    (s.advanced st j).robCount = s.robCount := rfl
@[simp] theorem State.advanced_rs (s : State) (st : Stage) (j : Nat) :
    (s.advanced st j).rs = s.rs := rfl
@[simp] theorem State.advanced_nRetired (s : State) (st : Stage) (j : Nat) :
    (s.advanced st j).nRetired = s.nRetired := rfl
@[simp] theorem State.advanced_trace (s : State) (st : Stage) (j : Nat) :
    (s.advanced st j).trace = s.trace ++ [⟨s.cycle, st, j⟩] := rfl
@[simp] theorem State.advanced_rst (s : State) (st : Stage) (j : Nat) :
    (s.advanced st j).rst = s.rst := rfl
@[simp] theorem State.advanced_active (s : State) (st : Stage) (j : Nat) :
    (s.advanced st j).active = none := rfl

/-! ## The start of a cycle -/

@[simp] theorem cycleStart_cfg (s : State) :
    (cycleStart s).cfg = s.cfg := rfl
@[simp] theorem cycleStart_progLen (s : State) :
    (cycleStart s).progLen = s.progLen := rfl
@[simp] theorem cycleStart_prog (s : State) :
    (cycleStart s).prog = s.prog := rfl
@[simp] theorem cycleStart_recs (s : State) :
    (cycleStart s).recs = s.recs := rfl
@[simp] theorem cycleStart_cycle (s : State) :
    (cycleStart s).cycle = s.cycle := rfl
@[simp] theorem cycleStart_status (s : State) :
    (cycleStart s).status = s.status := rfl
@[simp] theorem cycleStart_progress (s : State) :
    (cycleStart s).progress = false := rfl
@[simp] theorem cycleStart_fetchPtr (s : State) :
    (cycleStart s).fetchPtr = s.fetchPtr := rfl
@[simp] theorem cycleStart_fq (s : State) :
    (cycleStart s).fq = s.fq := rfl
@[simp] theorem cycleStart_dq (s : State) :
    (cycleStart s).dq = s.dq := rfl
@[simp] theorem cycleStart_xq (s : State) :
    (cycleStart s).xq = s.xq := rfl
@[simp] theorem cycleStart_cq (s : State) :
    (cycleStart s).cq = s.cq := rfl
@[simp] theorem cycleStart_dispOut (s : State) :
    (cycleStart s).dispOut = [] := rfl
@[simp] theorem cycleStart_compOut (s : State) :
    (cycleStart s).compOut = [] := rfl
@[simp] theorem cycleStart_retOut (s : State) :
    (cycleStart s).retOut = [] := rfl
@[simp] theorem cycleStart_specMap (s : State) :
    (cycleStart s).specMap = s.specMap := rfl
@[simp] theorem cycleStart_specReady (s : State) :
    (cycleStart s).specReady = s.specReady := rfl
@[simp] theorem cycleStart_archMap (s : State) :
    (cycleStart s).archMap = s.archMap := rfl
@[simp] theorem cycleStart_archReady (s : State) :
    (cycleStart s).archReady = s.archReady := rfl
@[simp] theorem cycleStart_freeList (s : State) :
    (cycleStart s).freeList = s.freeList ++ s.pendingFree := rfl
@[simp] theorem cycleStart_pendingFree (s : State) :
    (cycleStart s).pendingFree = [] := rfl
@[simp] theorem cycleStart_rob (s : State) :
    (cycleStart s).rob = s.rob := rfl
@[simp] theorem cycleStart_robHead (s : State) :
    (cycleStart s).robHead = s.robHead := rfl
@[simp] theorem cycleStart_robCount (s : State) :
    (cycleStart s).robCount = s.robCount := rfl
@[simp] theorem cycleStart_rs (s : State) :
    (cycleStart s).rs = s.rs := rfl
@[simp] theorem cycleStart_nRetired (s : State) :
    (cycleStart s).nRetired = s.nRetired := rfl
@[simp] theorem cycleStart_trace (s : State) :
    (cycleStart s).trace = [] := rfl
@[simp] theorem cycleStart_rst (s : State) :
    (cycleStart s).rst = s.rst := rfl
@[simp] theorem cycleStart_active (s : State) :
    (cycleStart s).active = s.active := rfl

/-! ## The end of a cycle -/

@[simp] theorem cycleEnd_cfg (s : State) : (cycleEnd s).cfg = s.cfg := by
  unfold cycleEnd; split <;> [rfl; (split <;> rfl)]
@[simp] theorem cycleEnd_progLen (s : State) : (cycleEnd s).progLen = s.progLen := by
  unfold cycleEnd; split <;> [rfl; (split <;> rfl)]
@[simp] theorem cycleEnd_prog (s : State) : (cycleEnd s).prog = s.prog := by
  unfold cycleEnd; split <;> [rfl; (split <;> rfl)]
@[simp] theorem cycleEnd_recs (s : State) : (cycleEnd s).recs = s.recs := by
  unfold cycleEnd; split <;> [rfl; (split <;> rfl)]
@[simp] theorem cycleEnd_progress (s : State) : (cycleEnd s).progress = s.progress := by
  unfold cycleEnd; split <;> [rfl; (split <;> rfl)]
@[simp] theorem cycleEnd_fetchPtr (s : State) : (cycleEnd s).fetchPtr = s.fetchPtr := by
  unfold cycleEnd; split <;> [rfl; (split <;> rfl)]
@[simp] theorem cycleEnd_fq (s : State) : (cycleEnd s).fq = s.fq := by
  unfold cycleEnd; split <;> [rfl; (split <;> rfl)]
@[simp] theorem cycleEnd_dq (s : State) : (cycleEnd s).dq = s.dq := by
  unfold cycleEnd; split <;> [rfl; (split <;> rfl)]
@[simp] theorem cycleEnd_xq (s : State) : (cycleEnd s).xq = s.xq := by
  unfold cycleEnd; split <;> [rfl; (split <;> rfl)]
@[simp] theorem cycleEnd_cq (s : State) : (cycleEnd s).cq = s.cq := by
  unfold cycleEnd; split <;> [rfl; (split <;> rfl)]
@[simp] theorem cycleEnd_dispOut (s : State) : (cycleEnd s).dispOut = s.dispOut := by
  unfold cycleEnd; split <;> [rfl; (split <;> rfl)]
@[simp] theorem cycleEnd_compOut (s : State) : (cycleEnd s).compOut = s.compOut := by
  unfold cycleEnd; split <;> [rfl; (split <;> rfl)]
@[simp] theorem cycleEnd_retOut (s : State) : (cycleEnd s).retOut = s.retOut := by
  unfold cycleEnd; split <;> [rfl; (split <;> rfl)]
@[simp] theorem cycleEnd_specMap (s : State) : (cycleEnd s).specMap = s.specMap := by
  unfold cycleEnd; split <;> [rfl; (split <;> rfl)]
@[simp] theorem cycleEnd_specReady (s : State) : (cycleEnd s).specReady = s.specReady := by
  unfold cycleEnd; split <;> [rfl; (split <;> rfl)]
@[simp] theorem cycleEnd_archMap (s : State) : (cycleEnd s).archMap = s.archMap := by
  unfold cycleEnd; split <;> [rfl; (split <;> rfl)]
@[simp] theorem cycleEnd_archReady (s : State) : (cycleEnd s).archReady = s.archReady := by
  unfold cycleEnd; split <;> [rfl; (split <;> rfl)]
@[simp] theorem cycleEnd_freeList (s : State) : (cycleEnd s).freeList = s.freeList := by
  unfold cycleEnd; split <;> [rfl; (split <;> rfl)]
@[simp] theorem cycleEnd_pendingFree (s : State) : (cycleEnd s).pendingFree = s.pendingFree := by
  unfold cycleEnd; split <;> [rfl; (split <;> rfl)]
@[simp] theorem cycleEnd_rob (s : State) : (cycleEnd s).rob = s.rob := by
  unfold cycleEnd; split <;> [rfl; (split <;> rfl)]
@[simp] theorem cycleEnd_robHead (s : State) : (cycleEnd s).robHead = s.robHead := by
  unfold cycleEnd; split <;> [rfl; (split <;> rfl)]
@[simp] theorem cycleEnd_robCount (s : State) : (cycleEnd s).robCount = s.robCount := by
  unfold cycleEnd; split <;> [rfl; (split <;> rfl)]
@[simp] theorem cycleEnd_rs (s : State) : (cycleEnd s).rs = s.rs := by
  unfold cycleEnd; split <;> [rfl; (split <;> rfl)]
@[simp] theorem cycleEnd_nRetired (s : State) : (cycleEnd s).nRetired = s.nRetired := by
  unfold cycleEnd; split <;> [rfl; (split <;> rfl)]
@[simp] theorem cycleEnd_trace (s : State) : (cycleEnd s).trace = s.trace := by
  unfold cycleEnd; split <;> [rfl; (split <;> rfl)]
@[simp] theorem cycleEnd_rst (s : State) : (cycleEnd s).rst = s.rst := by
  unfold cycleEnd; split <;> [rfl; (split <;> rfl)]
@[simp] theorem cycleEnd_active (s : State) : (cycleEnd s).active = s.active := by
  unfold cycleEnd; split <;> [rfl; (split <;> rfl)]

/-! ## The broadcast -/

@[simp] theorem State.broadcast_cfg (s : State) (t : Option Nat) : (s.broadcast t).cfg = s.cfg := by
  cases t <;> rfl
@[simp] theorem State.broadcast_progLen (s : State) (t : Option Nat) : (s.broadcast t).progLen = s.progLen := by
  cases t <;> rfl
@[simp] theorem State.broadcast_prog (s : State) (t : Option Nat) : (s.broadcast t).prog = s.prog := by
  cases t <;> rfl
@[simp] theorem State.broadcast_cycle (s : State) (t : Option Nat) : (s.broadcast t).cycle = s.cycle := by
  cases t <;> rfl
@[simp] theorem State.broadcast_status (s : State) (t : Option Nat) : (s.broadcast t).status = s.status := by
  cases t <;> rfl
@[simp] theorem State.broadcast_progress (s : State) (t : Option Nat) : (s.broadcast t).progress = s.progress := by
  cases t <;> rfl
@[simp] theorem State.broadcast_fetchPtr (s : State) (t : Option Nat) : (s.broadcast t).fetchPtr = s.fetchPtr := by
  cases t <;> rfl
@[simp] theorem State.broadcast_fq (s : State) (t : Option Nat) : (s.broadcast t).fq = s.fq := by
  cases t <;> rfl
@[simp] theorem State.broadcast_dq (s : State) (t : Option Nat) : (s.broadcast t).dq = s.dq := by
  cases t <;> rfl
@[simp] theorem State.broadcast_xq (s : State) (t : Option Nat) : (s.broadcast t).xq = s.xq := by
  cases t <;> rfl
@[simp] theorem State.broadcast_cq (s : State) (t : Option Nat) : (s.broadcast t).cq = s.cq := by
  cases t <;> rfl
@[simp] theorem State.broadcast_dispOut (s : State) (t : Option Nat) : (s.broadcast t).dispOut = s.dispOut := by
  cases t <;> rfl
@[simp] theorem State.broadcast_compOut (s : State) (t : Option Nat) : (s.broadcast t).compOut = s.compOut := by
  cases t <;> rfl
@[simp] theorem State.broadcast_retOut (s : State) (t : Option Nat) : (s.broadcast t).retOut = s.retOut := by
  cases t <;> rfl
@[simp] theorem State.broadcast_specMap (s : State) (t : Option Nat) : (s.broadcast t).specMap = s.specMap := by
  cases t <;> rfl
@[simp] theorem State.broadcast_specReady (s : State) (t : Option Nat) : (s.broadcast t).specReady = s.specReady := by
  cases t <;> rfl
@[simp] theorem State.broadcast_archMap (s : State) (t : Option Nat) : (s.broadcast t).archMap = s.archMap := by
  cases t <;> rfl
@[simp] theorem State.broadcast_archReady (s : State) (t : Option Nat) : (s.broadcast t).archReady = s.archReady := by
  cases t <;> rfl
@[simp] theorem State.broadcast_freeList (s : State) (t : Option Nat) : (s.broadcast t).freeList = s.freeList := by
  cases t <;> rfl
@[simp] theorem State.broadcast_pendingFree (s : State) (t : Option Nat) : (s.broadcast t).pendingFree = s.pendingFree := by
  cases t <;> rfl
@[simp] theorem State.broadcast_rob (s : State) (t : Option Nat) : (s.broadcast t).rob = s.rob := by
  cases t <;> rfl
@[simp] theorem State.broadcast_robHead (s : State) (t : Option Nat) : (s.broadcast t).robHead = s.robHead := by
  cases t <;> rfl
@[simp] theorem State.broadcast_robCount (s : State) (t : Option Nat) : (s.broadcast t).robCount = s.robCount := by
  cases t <;> rfl
@[simp] theorem State.broadcast_rs (s : State) (t : Option Nat) : (s.broadcast t).rs = s.rs := by
  cases t <;> rfl
@[simp] theorem State.broadcast_nRetired (s : State) (t : Option Nat) : (s.broadcast t).nRetired = s.nRetired := by
  cases t <;> rfl
@[simp] theorem State.broadcast_trace (s : State) (t : Option Nat) : (s.broadcast t).trace = s.trace := by
  cases t <;> rfl
@[simp] theorem State.broadcast_rst (s : State) (t : Option Nat) : (s.broadcast t).rst = s.rst := by
  cases t <;> rfl
@[simp] theorem State.broadcast_active (s : State) (t : Option Nat) : (s.broadcast t).active = s.active := by
  cases t <;> rfl

/-! ## The reset state -/

@[simp] theorem State.ofReset_cfg (c : Config) (n : Nat) (prog : Memory) (is : List Instr) :
    (State.ofReset c n prog is).cfg = c := rfl
@[simp] theorem State.ofReset_progLen (c : Config) (n : Nat) (prog : Memory) (is : List Instr) :
    (State.ofReset c n prog is).progLen = n := rfl
@[simp] theorem State.ofReset_prog (c : Config) (n : Nat) (prog : Memory) (is : List Instr) :
    (State.ofReset c n prog is).prog = prog := rfl
@[simp] theorem State.ofReset_recs (c : Config) (n : Nat) (prog : Memory) (is : List Instr) :
    (State.ofReset c n prog is).recs = is.map InstrRecord.fresh := rfl
@[simp] theorem State.ofReset_cycle (c : Config) (n : Nat) (prog : Memory) (is : List Instr) :
    (State.ofReset c n prog is).cycle = c.firstCycle := rfl
@[simp] theorem State.ofReset_status (c : Config) (n : Nat) (prog : Memory) (is : List Instr) :
    (State.ofReset c n prog is).status = .running := rfl
@[simp] theorem State.ofReset_progress (c : Config) (n : Nat) (prog : Memory) (is : List Instr) :
    (State.ofReset c n prog is).progress = false := rfl
@[simp] theorem State.ofReset_fetchPtr (c : Config) (n : Nat) (prog : Memory) (is : List Instr) :
    (State.ofReset c n prog is).fetchPtr = 0 := rfl
@[simp] theorem State.ofReset_fq (c : Config) (n : Nat) (prog : Memory) (is : List Instr) :
    (State.ofReset c n prog is).fq = [] := rfl
@[simp] theorem State.ofReset_dq (c : Config) (n : Nat) (prog : Memory) (is : List Instr) :
    (State.ofReset c n prog is).dq = [] := rfl
@[simp] theorem State.ofReset_xq (c : Config) (n : Nat) (prog : Memory) (is : List Instr) :
    (State.ofReset c n prog is).xq = [] := rfl
@[simp] theorem State.ofReset_cq (c : Config) (n : Nat) (prog : Memory) (is : List Instr) :
    (State.ofReset c n prog is).cq = [] := rfl
@[simp] theorem State.ofReset_dispOut (c : Config) (n : Nat) (prog : Memory) (is : List Instr) :
    (State.ofReset c n prog is).dispOut = [] := rfl
@[simp] theorem State.ofReset_compOut (c : Config) (n : Nat) (prog : Memory) (is : List Instr) :
    (State.ofReset c n prog is).compOut = [] := rfl
@[simp] theorem State.ofReset_retOut (c : Config) (n : Nat) (prog : Memory) (is : List Instr) :
    (State.ofReset c n prog is).retOut = [] := rfl
@[simp] theorem State.ofReset_specMap (c : Config) (n : Nat) (prog : Memory) (is : List Instr) :
    (State.ofReset c n prog is).specMap = List.range c.numArch := rfl
@[simp] theorem State.ofReset_specReady (c : Config) (n : Nat) (prog : Memory) (is : List Instr) :
    (State.ofReset c n prog is).specReady = readyAtReset c := rfl
@[simp] theorem State.ofReset_archMap (c : Config) (n : Nat) (prog : Memory) (is : List Instr) :
    (State.ofReset c n prog is).archMap = List.range c.numArch := rfl
@[simp] theorem State.ofReset_archReady (c : Config) (n : Nat) (prog : Memory) (is : List Instr) :
    (State.ofReset c n prog is).archReady = readyAtReset c := rfl
@[simp] theorem State.ofReset_freeList (c : Config) (n : Nat) (prog : Memory) (is : List Instr) :
    (State.ofReset c n prog is).freeList = List.range' c.numArch (c.numPhys - c.numArch) := rfl
@[simp] theorem State.ofReset_pendingFree (c : Config) (n : Nat) (prog : Memory) (is : List Instr) :
    (State.ofReset c n prog is).pendingFree = [] := rfl
@[simp] theorem State.ofReset_rob (c : Config) (n : Nat) (prog : Memory) (is : List Instr) :
    (State.ofReset c n prog is).rob = List.replicate c.robSize RobEntry.initial := rfl
@[simp] theorem State.ofReset_robHead (c : Config) (n : Nat) (prog : Memory) (is : List Instr) :
    (State.ofReset c n prog is).robHead = 0 := rfl
@[simp] theorem State.ofReset_robCount (c : Config) (n : Nat) (prog : Memory) (is : List Instr) :
    (State.ofReset c n prog is).robCount = 0 := rfl
@[simp] theorem State.ofReset_rs (c : Config) (n : Nat) (prog : Memory) (is : List Instr) :
    (State.ofReset c n prog is).rs = List.replicate c.stations.length {} := rfl
@[simp] theorem State.ofReset_nRetired (c : Config) (n : Nat) (prog : Memory) (is : List Instr) :
    (State.ofReset c n prog is).nRetired = 0 := rfl
@[simp] theorem State.ofReset_trace (c : Config) (n : Nat) (prog : Memory) (is : List Instr) :
    (State.ofReset c n prog is).trace = [] := rfl
@[simp] theorem State.ofReset_rst (c : Config) (n : Nat) (prog : Memory) (is : List Instr) :
    (State.ofReset c n prog is).rst = false := rfl
@[simp] theorem State.ofReset_active (c : Config) (n : Nat) (prog : Memory) (is : List Instr) :
    (State.ofReset c n prog is).active = none := rfl

/-! ## Records -/

@[simp] theorem InstrRecord.markRenamed_instr (r : InstrRecord) :
    (r.markRenamed).instr = r.instr := rfl
@[simp] theorem InstrRecord.markRenamed_ps1 (r : InstrRecord) :
    (r.markRenamed).ps1 = r.ps1 := rfl
@[simp] theorem InstrRecord.markRenamed_ps2 (r : InstrRecord) :
    (r.markRenamed).ps2 = r.ps2 := rfl
@[simp] theorem InstrRecord.markRenamed_rdy1 (r : InstrRecord) :
    (r.markRenamed).rdy1 = r.rdy1 := rfl
@[simp] theorem InstrRecord.markRenamed_rdy2 (r : InstrRecord) :
    (r.markRenamed).rdy2 = r.rdy2 := rfl
@[simp] theorem InstrRecord.markRenamed_pd (r : InstrRecord) :
    (r.markRenamed).pd = r.pd := rfl
@[simp] theorem InstrRecord.markRenamed_renamed (r : InstrRecord) :
    (r.markRenamed).renamed = true := rfl
@[simp] theorem InstrRecord.markRenamed_issued (r : InstrRecord) :
    (r.markRenamed).issued = r.issued := rfl
@[simp] theorem InstrRecord.markRenamed_completed (r : InstrRecord) :
    (r.markRenamed).completed = r.completed := rfl
@[simp] theorem InstrRecord.markRenamed_retired (r : InstrRecord) :
    (r.markRenamed).retired = r.retired := rfl
@[simp] theorem InstrRecord.markRenamed_lat (r : InstrRecord) :
    (r.markRenamed).lat = r.lat := rfl
@[simp] theorem InstrRecord.markRenamed_rsIdx (r : InstrRecord) :
    (r.markRenamed).rsIdx = r.rsIdx := rfl
@[simp] theorem InstrRecord.markRenamed_ts (r : InstrRecord) :
    (r.markRenamed).ts = r.ts := rfl

@[simp] theorem InstrRecord.markIssued_instr (r : InstrRecord) :
    (r.markIssued).instr = r.instr := rfl
@[simp] theorem InstrRecord.markIssued_ps1 (r : InstrRecord) :
    (r.markIssued).ps1 = r.ps1 := rfl
@[simp] theorem InstrRecord.markIssued_ps2 (r : InstrRecord) :
    (r.markIssued).ps2 = r.ps2 := rfl
@[simp] theorem InstrRecord.markIssued_rdy1 (r : InstrRecord) :
    (r.markIssued).rdy1 = r.rdy1 := rfl
@[simp] theorem InstrRecord.markIssued_rdy2 (r : InstrRecord) :
    (r.markIssued).rdy2 = r.rdy2 := rfl
@[simp] theorem InstrRecord.markIssued_pd (r : InstrRecord) :
    (r.markIssued).pd = r.pd := rfl
@[simp] theorem InstrRecord.markIssued_renamed (r : InstrRecord) :
    (r.markIssued).renamed = r.renamed := rfl
@[simp] theorem InstrRecord.markIssued_issued (r : InstrRecord) :
    (r.markIssued).issued = true := rfl
@[simp] theorem InstrRecord.markIssued_completed (r : InstrRecord) :
    (r.markIssued).completed = r.completed := rfl
@[simp] theorem InstrRecord.markIssued_retired (r : InstrRecord) :
    (r.markIssued).retired = r.retired := rfl
@[simp] theorem InstrRecord.markIssued_lat (r : InstrRecord) :
    (r.markIssued).lat = r.lat := rfl
@[simp] theorem InstrRecord.markIssued_rsIdx (r : InstrRecord) :
    (r.markIssued).rsIdx = r.rsIdx := rfl
@[simp] theorem InstrRecord.markIssued_ts (r : InstrRecord) :
    (r.markIssued).ts = r.ts := rfl

@[simp] theorem InstrRecord.markCompleted_instr (r : InstrRecord) :
    (r.markCompleted).instr = r.instr := rfl
@[simp] theorem InstrRecord.markCompleted_ps1 (r : InstrRecord) :
    (r.markCompleted).ps1 = r.ps1 := rfl
@[simp] theorem InstrRecord.markCompleted_ps2 (r : InstrRecord) :
    (r.markCompleted).ps2 = r.ps2 := rfl
@[simp] theorem InstrRecord.markCompleted_rdy1 (r : InstrRecord) :
    (r.markCompleted).rdy1 = r.rdy1 := rfl
@[simp] theorem InstrRecord.markCompleted_rdy2 (r : InstrRecord) :
    (r.markCompleted).rdy2 = r.rdy2 := rfl
@[simp] theorem InstrRecord.markCompleted_pd (r : InstrRecord) :
    (r.markCompleted).pd = r.pd := rfl
@[simp] theorem InstrRecord.markCompleted_renamed (r : InstrRecord) :
    (r.markCompleted).renamed = r.renamed := rfl
@[simp] theorem InstrRecord.markCompleted_issued (r : InstrRecord) :
    (r.markCompleted).issued = r.issued := rfl
@[simp] theorem InstrRecord.markCompleted_completed (r : InstrRecord) :
    (r.markCompleted).completed = true := rfl
@[simp] theorem InstrRecord.markCompleted_retired (r : InstrRecord) :
    (r.markCompleted).retired = r.retired := rfl
@[simp] theorem InstrRecord.markCompleted_lat (r : InstrRecord) :
    (r.markCompleted).lat = r.lat := rfl
@[simp] theorem InstrRecord.markCompleted_rsIdx (r : InstrRecord) :
    (r.markCompleted).rsIdx = r.rsIdx := rfl
@[simp] theorem InstrRecord.markCompleted_ts (r : InstrRecord) :
    (r.markCompleted).ts = r.ts := rfl

@[simp] theorem InstrRecord.markRetired_instr (r : InstrRecord) :
    (r.markRetired).instr = r.instr := rfl
@[simp] theorem InstrRecord.markRetired_ps1 (r : InstrRecord) :
    (r.markRetired).ps1 = r.ps1 := rfl
@[simp] theorem InstrRecord.markRetired_ps2 (r : InstrRecord) :
    (r.markRetired).ps2 = r.ps2 := rfl
@[simp] theorem InstrRecord.markRetired_rdy1 (r : InstrRecord) :
    (r.markRetired).rdy1 = r.rdy1 := rfl
@[simp] theorem InstrRecord.markRetired_rdy2 (r : InstrRecord) :
    (r.markRetired).rdy2 = r.rdy2 := rfl
@[simp] theorem InstrRecord.markRetired_pd (r : InstrRecord) :
    (r.markRetired).pd = r.pd := rfl
@[simp] theorem InstrRecord.markRetired_renamed (r : InstrRecord) :
    (r.markRetired).renamed = r.renamed := rfl
@[simp] theorem InstrRecord.markRetired_issued (r : InstrRecord) :
    (r.markRetired).issued = r.issued := rfl
@[simp] theorem InstrRecord.markRetired_completed (r : InstrRecord) :
    (r.markRetired).completed = r.completed := rfl
@[simp] theorem InstrRecord.markRetired_retired (r : InstrRecord) :
    (r.markRetired).retired = true := rfl
@[simp] theorem InstrRecord.markRetired_lat (r : InstrRecord) :
    (r.markRetired).lat = r.lat := rfl
@[simp] theorem InstrRecord.markRetired_rsIdx (r : InstrRecord) :
    (r.markRetired).rsIdx = r.rsIdx := rfl
@[simp] theorem InstrRecord.markRetired_ts (r : InstrRecord) :
    (r.markRetired).ts = r.ts := rfl

@[simp] theorem InstrRecord.dispatched_instr (r : InstrRecord) (a b : Snapshot) (pd : Option Nat) (k : Nat) :
    (r.dispatched a b pd k).instr = r.instr := rfl
@[simp] theorem InstrRecord.dispatched_ps1 (r : InstrRecord) (a b : Snapshot) (pd : Option Nat) (k : Nat) :
    (r.dispatched a b pd k).ps1 = a.1 := rfl
@[simp] theorem InstrRecord.dispatched_ps2 (r : InstrRecord) (a b : Snapshot) (pd : Option Nat) (k : Nat) :
    (r.dispatched a b pd k).ps2 = b.1 := rfl
@[simp] theorem InstrRecord.dispatched_rdy1 (r : InstrRecord) (a b : Snapshot) (pd : Option Nat) (k : Nat) :
    (r.dispatched a b pd k).rdy1 = a.2 := rfl
@[simp] theorem InstrRecord.dispatched_rdy2 (r : InstrRecord) (a b : Snapshot) (pd : Option Nat) (k : Nat) :
    (r.dispatched a b pd k).rdy2 = b.2 := rfl
@[simp] theorem InstrRecord.dispatched_pd (r : InstrRecord) (a b : Snapshot) (pd : Option Nat) (k : Nat) :
    (r.dispatched a b pd k).pd = pd := rfl
@[simp] theorem InstrRecord.dispatched_renamed (r : InstrRecord) (a b : Snapshot) (pd : Option Nat) (k : Nat) :
    (r.dispatched a b pd k).renamed = true := rfl
@[simp] theorem InstrRecord.dispatched_issued (r : InstrRecord) (a b : Snapshot) (pd : Option Nat) (k : Nat) :
    (r.dispatched a b pd k).issued = r.issued := rfl
@[simp] theorem InstrRecord.dispatched_completed (r : InstrRecord) (a b : Snapshot) (pd : Option Nat) (k : Nat) :
    (r.dispatched a b pd k).completed = r.completed := rfl
@[simp] theorem InstrRecord.dispatched_retired (r : InstrRecord) (a b : Snapshot) (pd : Option Nat) (k : Nat) :
    (r.dispatched a b pd k).retired = r.retired := rfl
@[simp] theorem InstrRecord.dispatched_lat (r : InstrRecord) (a b : Snapshot) (pd : Option Nat) (k : Nat) :
    (r.dispatched a b pd k).lat = r.lat := rfl
@[simp] theorem InstrRecord.dispatched_rsIdx (r : InstrRecord) (a b : Snapshot) (pd : Option Nat) (k : Nat) :
    (r.dispatched a b pd k).rsIdx = some k := rfl
@[simp] theorem InstrRecord.dispatched_ts (r : InstrRecord) (a b : Snapshot) (pd : Option Nat) (k : Nat) :
    (r.dispatched a b pd k).ts = r.ts := rfl

@[simp] theorem InstrRecord.wake_instr (r : InstrRecord) (t : Nat) :
    (r.wake t).instr = r.instr := rfl
@[simp] theorem InstrRecord.wake_ps1 (r : InstrRecord) (t : Nat) :
    (r.wake t).ps1 = r.ps1 := rfl
@[simp] theorem InstrRecord.wake_ps2 (r : InstrRecord) (t : Nat) :
    (r.wake t).ps2 = r.ps2 := rfl
@[simp] theorem InstrRecord.wake_rdy1 (r : InstrRecord) (t : Nat) :
    (r.wake t).rdy1 = (r.rdy1 || (r.instr.src1.isSome && decide (r.ps1 = some t))) := rfl
@[simp] theorem InstrRecord.wake_rdy2 (r : InstrRecord) (t : Nat) :
    (r.wake t).rdy2 = (r.rdy2 || (r.instr.src2.isSome && decide (r.ps2 = some t))) := rfl
@[simp] theorem InstrRecord.wake_pd (r : InstrRecord) (t : Nat) :
    (r.wake t).pd = r.pd := rfl
@[simp] theorem InstrRecord.wake_renamed (r : InstrRecord) (t : Nat) :
    (r.wake t).renamed = r.renamed := rfl
@[simp] theorem InstrRecord.wake_issued (r : InstrRecord) (t : Nat) :
    (r.wake t).issued = r.issued := rfl
@[simp] theorem InstrRecord.wake_completed (r : InstrRecord) (t : Nat) :
    (r.wake t).completed = r.completed := rfl
@[simp] theorem InstrRecord.wake_retired (r : InstrRecord) (t : Nat) :
    (r.wake t).retired = r.retired := rfl
@[simp] theorem InstrRecord.wake_lat (r : InstrRecord) (t : Nat) :
    (r.wake t).lat = r.lat := rfl
@[simp] theorem InstrRecord.wake_rsIdx (r : InstrRecord) (t : Nat) :
    (r.wake t).rsIdx = r.rsIdx := rfl
@[simp] theorem InstrRecord.wake_ts (r : InstrRecord) (t : Nat) :
    (r.wake t).ts = r.ts := rfl

/-! ## Timestamps -/

@[simp] theorem Timestamps.get_set_self (t : Timestamps) (v : Int) (st : Stage) :
    (t.set v st).get st = v := by cases st <;> rfl

@[simp] theorem Timestamps.get_set_of_ne (t : Timestamps) (v : Int) (st st' : Stage) (h : st' ≠ st) :
    (t.set v st).get st' = t.get st' := by
  cases st <;> cases st' <;> first | rfl | exact absurd rfl h

/-! ## Outcomes -/

@[simp] theorem andThen_next (s : State) (k : State → Result) : andThen (.next s) k = k s := rfl
@[simp] theorem andThen_fault (f : Fault) (k : State → Result) : andThen (.fault f) k = .fault f := rfl
@[simp] theorem andThen_refused (r : Refusal) (k : State → Result) :
    andThen (.refused r) k = .refused r := rfl

/-- A sequence answers a next state exactly when its parts do. -/
theorem andThen_eq_next {o : Result} {k : State → Result} {t : State} :
    andThen o k = .next t ↔ ∃ u, o = .next u ∧ k u = .next t := by
  cases o <;> simp [andThen]

/-- After a meaning, either the instruction advanced and the stage went on, or it stalled and the stage
ended. -/
theorem orStall_eq_next {o : Result} {k : State → Result} {t : State} :
    orStall o k = .next t ↔
      ∃ u, o = .next u ∧ ((u.active = none ∧ k u = .next t) ∨ (u.active ≠ none ∧ t = u.deselect)) := by
  unfold orStall
  rw [andThen_eq_next]
  constructor
  · rintro ⟨u, h, hk⟩
    refine ⟨u, h, ?_⟩
    cases hu : u.active <;> simp_all
  · rintro ⟨u, h, hk | hk⟩ <;> refine ⟨u, h, ?_⟩
    · simp [hk.1, hk.2]
    · cases hu : u.active <;> simp_all

@[simp] theorem State.deselect_select (s : State) (st : Stage) (j : Nat) (h : s.active = none) :
    (s.select st j).deselect = s := by
  cases s; simp_all [State.select, State.deselect]

theorem State.deselect_of_idle {s : State} (h : s.active = none) : s.deselect = s := by
  cases s; simp_all [State.deselect]

end Sys2Proof.Machine
end

