-- ==== Sys2Proof/Laws/Stages.lean ====
section
/-!
SUPPORT. Everything a stage can do with an instruction, once: if its meaning answers a next state, then that
state is the old one (a stall) or the one the stage's rule describes. Later proofs cite these and never
unfold a stage.
-/
namespace Sys2Proof.Machine

/-- Every instruction takes the path of its kind (R160). -/
theorem exec_eq_runStage (i : Instr) (s : State) :
    exec i s = runStage i.kind i.dst i.src1 i.src2 s := by
  cases i <;> rfl

@[simp] theorem exec_of_idle (i : Instr) {s : State} (h : s.active = none) : exec i s = .next s := by
  simp [exec_eq_runStage, runStage, h]

theorem exec_fetch (i : Instr) {s : State} {j : Nat} (h : s.active = some ⟨.fetch, j⟩) :
    exec i s = fetchStage j s := by simp [exec_eq_runStage, runStage, h]

theorem exec_decode (i : Instr) {s : State} {j : Nat} (h : s.active = some ⟨.decode, j⟩) :
    exec i s = decodeStage j s := by simp [exec_eq_runStage, runStage, h]

theorem exec_dispatch (i : Instr) {s : State} {j : Nat} (h : s.active = some ⟨.dispatch, j⟩) :
    exec i s = dispatchStage i.kind i.dst i.src1 i.src2 j s := by simp [exec_eq_runStage, runStage, h]

theorem exec_issue (i : Instr) {s : State} {j : Nat} (h : s.active = some ⟨.issue, j⟩) :
    exec i s = issueStage i.src1 i.src2 j s := by simp [exec_eq_runStage, runStage, h]

theorem exec_execute (i : Instr) {s : State} {j : Nat} (h : s.active = some ⟨.execute, j⟩) :
    exec i s = executeStage j s := by simp [exec_eq_runStage, runStage, h]

theorem exec_complete (i : Instr) {s : State} {j : Nat} (h : s.active = some ⟨.complete, j⟩) :
    exec i s = completeStage j s := by simp [exec_eq_runStage, runStage, h]

theorem exec_retire (i : Instr) {s : State} {j : Nat} (h : s.active = some ⟨.retire, j⟩) :
    exec i s = retireStage i.dst j s := by simp [exec_eq_runStage, runStage, h]

/-- Fetch stalls on a full FQ, or takes the instruction (R181). -/
theorem fetchStage_next {j : Nat} {s t : State} (h : fetchStage j s = .next t) :
    (s.fqFull = true ∧ t = s)
      ∨ (s.fqFull = false
          ∧ t = { s with fq := s.fq ++ [j], fetchPtr := s.fetchPtr + 1 }.advanced .fetch j) := by
  unfold fetchStage at h
  split at h <;> cases h <;> simp_all

/-- Decode stalls on a full DQ, or moves the instruction (R183). -/
theorem decodeStage_next {j : Nat} {s t : State} (h : decodeStage j s = .next t) :
    (s.dqFull = true ∧ t = s)
      ∨ (s.dqFull = false
          ∧ t = { s with fq := s.fq.tail, dq := s.dq ++ [j] }.advanced .decode j) := by
  unfold decodeStage at h
  split at h <;> cases h <;> simp_all

/-- Dispatch stalls on a precondition, or renames and allocates (R200 to R208). -/
theorem dispatchStage_next {kind : Kind} {d a b : Operand} {j : Nat} {s t : State}
    (h : dispatchStage kind d a b j s = .next t) :
    (s.dispatchStation kind d = none ∧ t = s)
      ∨ ∃ k src1 src2 n u, s.dispatchStation kind d = some k ∧ s.renameSource a = .ok src1
          ∧ s.renameSource b = .ok src2 ∧ s.renameDestination d = .ok n
          ∧ n.state.allocate j k n.newTag n.oldTag = .ok u
          ∧ t = ({ u with dq := u.dq.tail, dispOut := u.dispOut ++ [j] }.updateRecord j
              (InstrRecord.dispatched src1 src2 n.newTag k)).advanced .dispatch j := by
  unfold dispatchStage at h
  split at h
  · cases h
    exact .inl ⟨‹_›, rfl⟩
  · split at h
    · cases h
    · split at h
      · cases h
      · split at h
        · cases h
        · split at h
          · cases h
          · cases h
            exact .inr ⟨_, _, _, _, _, ‹_›, ‹_›, ‹_›, ‹_›, ‹_›, rfl⟩

/-- Issue passes the instruction over, or sends it to XQ (R230 to R232). -/
theorem issueStage_next {a b : Operand} {j : Nat} {s t : State} (h : issueStage a b j s = .next t) :
    ∃ r, s.recs[j]? = some r
      ∧ (((s.xqFull = true ∨ readyToExecute a b r = false ∨ r.issued = true) ∧ t = s)
        ∨ (s.xqFull = false ∧ readyToExecute a b r = true ∧ r.issued = false
            ∧ t = ({ s with xq := s.xq ++ [j] }.updateRecord j InstrRecord.markIssued).advanced .issue j)) := by
  unfold issueStage at h
  split at h
  · cases h
  · rename_i r hr
    refine ⟨r, hr, ?_⟩
    split at h
    · rename_i hc
      simp only [Bool.and_eq_true, Bool.not_eq_true'] at hc
      cases h
      exact .inr ⟨hc.1.1, hc.1.2, hc.2, rfl⟩
    · rename_i hc
      cases h
      refine .inl ⟨?_, rfl⟩
      cases hx : s.xqFull <;> cases hy : readyToExecute a b r <;> cases hz : r.issued <;> simp_all

/-- Execute stalls on a full CQ, or moves the instruction and frees its station (R240 to R242). -/
theorem executeStage_next {j : Nat} {s t : State} (h : executeStage j s = .next t) :
    (s.cqFull = true ∧ t = s)
      ∨ ∃ r k type, s.cqFull = false ∧ s.recs[j]? = some r ∧ r.rsIdx = some k
          ∧ s.stationType k = some type
          ∧ t = ({ s with
              xq := s.xq.tail
              cq := s.cq ++ [j]
              rs := s.rs.set k {} }.updateRecord j fun r =>
                { r with lat := s.cfg.lat type, rsIdx := none }).advanced .execute j := by
  unfold executeStage at h
  split at h
  · cases h
    exact .inl ⟨‹_›, rfl⟩
  · rename_i hc
    split at h
    · cases h
    · rename_i k hk
      split at h
      · cases h
      · rename_i type ht
        cases h
        obtain ⟨r, hr, hrk⟩ := Option.bind_eq_some_iff.mp hk
        exact .inr ⟨r, k, type, by simpa using hc, hr, hrk, ht, rfl⟩

/-- Complete passes over an instruction that is not due, or completes it (R260 to R264). -/
theorem completeStage_next {j : Nat} {s t : State} (h : completeStage j s = .next t) :
    ∃ r, s.recs[j]? = some r
      ∧ (((s.cycle : Int) < r.ts.execute + r.lat ∧ t = s)
        ∨ ∃ u, r.ts.execute + r.lat ≤ s.cycle ∧ (s.broadcast r.pd).markReady r.pd = .ok u
            ∧ t = ({ u with cq := u.cq.erase j, compOut := u.compOut ++ [j] }.updateRecord j
                InstrRecord.markCompleted).advanced .complete j) := by
  unfold completeStage at h
  split at h
  · cases h
  · rename_i r hr
    refine ⟨r, hr, ?_⟩
    split at h
    · split at h
      · cases h
      · cases h
        exact .inr ⟨_, ‹_›, ‹_›, rfl⟩
    · cases h
      exact .inl ⟨by omega, rfl⟩

/-- Retire stops on an empty ROB or a head that has not completed, or retires it (R280 to R284). -/
theorem retireStage_next {d : Operand} {j : Nat} {s t : State} (h : retireStage d j s = .next t) :
    (s.robCount = 0 ∧ t = s)
      ∨ ∃ e r, s.robCount ≠ 0 ∧ s.rob[s.robHead]? = some e ∧ s.recs[j]? = some r
          ∧ ((r.completed = false ∧ t = s)
            ∨ ∃ u, r.completed = true ∧ s.commit d e = .ok u
                ∧ t = ({ u with
                    robHead := u.robSlot 1
                    robCount := u.robCount - 1
                    nRetired := u.nRetired + 1
                    retOut := u.retOut ++ [j] }.updateRecord j InstrRecord.markRetired).advanced .retire j) := by
  unfold retireStage at h
  split at h
  · cases h
    exact .inl ⟨‹_›, rfl⟩
  · split at h
    · cases h
    · rename_i e he
      split at h
      · cases h
      · rename_i r hr
        refine .inr ⟨e, r, ‹_›, he, hr, ?_⟩
        split at h
        · split at h
          · cases h
          · cases h
            exact .inr ⟨_, ‹_›, ‹_›, rfl⟩
        · cases h
          exact .inl ⟨by simp_all, rfl⟩

/-- No meaning refuses (R300). -/
theorem exec_ne_refused (i : Instr) (s : State) (r : Refusal) : exec i s ≠ .refused r := by
  rw [exec_eq_runStage]
  unfold runStage
  split
  · simp
  · unfold fetchStage; split <;> simp
  · unfold decodeStage; split <;> simp
  · unfold dispatchStage; repeat' (split <;> try simp)
  · unfold issueStage; repeat' (split <;> try simp)
  · unfold executeStage; repeat' (split <;> try simp)
  · unfold completeStage; repeat' (split <;> try simp)
  · unfold retireStage; repeat' (split <;> try simp)

end Sys2Proof.Machine
end

