-- ==== Sys2Proof/Laws/Cycle.lean ====
section
/-!
SUPPORT. What the stage procedures and the step can do, once: one principle per procedure that turns "every
instruction the stage hands to its meaning keeps `P`" into "the stage keeps `P`", and their assembly into one
for the whole cycle step.
-/
namespace Sys2Proof.Machine

/-- What a stage hands to a meaning is the record's instruction. -/
theorem present_eq_next {st : Stage} {j : Nat} {s t : State} :
    present st j s = .next t ↔ ∃ r, s.recs[j]? = some r ∧ exec r.instr (s.select st j) = .next t := by
  unfold present
  cases s.recs[j]? <;> simp

/-- What fetch hands to a meaning is the decoding of the descriptor at the fetch pointer. -/
theorem presentFetched_eq_next {s t : State} :
    presentFetched s = .next t ↔
      ∃ w i, s.progRead s.fetchPtr = some w ∧ decode s.cfg.numArch w = .ok i
        ∧ exec i (s.select .fetch s.fetchPtr) = .next t := by
  unfold presentFetched
  constructor
  · intro h
    split at h
    · cases h
    · split at h
      · cases h
      · exact ⟨_, _, ‹_›, ‹_›, h⟩
  · rintro ⟨w, i, hw, hi, h⟩
    simp [hw, hi, h]

section Principles

variable {P : State → Prop}

/-- A stalled or advanced instruction leaves a state that ends its selection. -/
theorem orStall_preserves {o : Result} {k : State → Result} {t : State}
    (hmeaning : ∀ u, o = .next u → P u.deselect) (hrest : ∀ u v, P u → k u = .next v → P v)
    (h : orStall o k = .next t) : P t := by
  obtain ⟨u, ho, ⟨hu, hk⟩ | ⟨-, rfl⟩⟩ := orStall_eq_next.mp h
  · have := hmeaning u ho
    rw [State.deselect_of_idle hu] at this
    exact hrest u t this hk
  · exact hmeaning u ho

theorem retireLoop_preserves
    (hmeaning : ∀ s e u, P s → s.robCount ≠ 0 → s.rob[s.robHead]? = some e →
      present .retire e.inst s = .next u → P u.deselect) :
    ∀ (n : Nat) (s t : State), P s → retireLoop n s = .next t → P t := by
  intro n
  induction n with
  | zero => intro s t hs h; cases h; exact hs
  | succ n ih =>
    intro s t hs h
    unfold retireLoop at h
    split at h
    · cases h; exact hs
    · split at h
      · cases h
      · exact orStall_preserves (fun u hu => hmeaning s _ u hs ‹_› ‹_› hu) (fun u v => ih u v) h

theorem completeScan_preserves
    (hmeaning : ∀ s j u, P s → present .complete j s = .next u → P u.deselect) :
    ∀ (js : List Nat) (s t : State), P s → completeScan js s = .next t → P t := by
  intro js
  induction js with
  | nil => intro s t hs h; cases h; exact hs
  | cons j js ih =>
    intro s t hs h
    obtain ⟨u, hu, hk⟩ := andThen_eq_next.mp h
    exact ih _ t (hmeaning s j u hs hu) hk

theorem executeLoop_preserves
    (hmeaning : ∀ s j rest u, P s → s.xq = j :: rest → present .execute j s = .next u → P u.deselect) :
    ∀ (n : Nat) (s t : State), P s → executeLoop n s = .next t → P t := by
  intro n
  induction n with
  | zero => intro s t hs h; cases h; exact hs
  | succ n ih =>
    intro s t hs h
    unfold executeLoop at h
    split at h
    · cases h; exact hs
    · exact orStall_preserves (fun u hu => hmeaning s _ _ u hs ‹_› hu) (fun u v => ih u v) h

theorem issueScan_preserves
    (hmeaning : ∀ s (k : Nat) (st : Station) (j : Nat) u, P s → s.rs[k]? = some st → st.held = some j →
      present .issue j s = .next u → P u.deselect) :
    ∀ (ks : List Nat) (n : Nat) (s t : State), P s → issueScan ks n s = .next t → P t := by
  intro ks
  induction ks with
  | nil => intro n s t hs h; cases h; exact hs
  | cons k ks ih =>
    intro n s t hs h
    unfold issueScan at h
    split at h
    · cases h; exact hs
    · split at h
      · exact ih n s t hs h
      · rename_i j hj
        obtain ⟨st, hst, hheld⟩ := Option.bind_eq_some_iff.mp hj
        obtain ⟨u, hu, hk⟩ := andThen_eq_next.mp h
        have hPu := hmeaning s k st j u hs hst hheld hu
        split at hk
        · rename_i hidle
          rw [State.deselect_of_idle (by simpa using hidle)] at hPu
          exact ih _ u t hPu hk
        · exact ih _ _ t hPu hk

theorem dispatchLoop_preserves
    (hmeaning : ∀ s j rest u, P s → s.dq = j :: rest → present .dispatch j s = .next u → P u.deselect) :
    ∀ (n : Nat) (s t : State), P s → dispatchLoop n s = .next t → P t := by
  intro n
  induction n with
  | zero => intro s t hs h; cases h; exact hs
  | succ n ih =>
    intro s t hs h
    unfold dispatchLoop at h
    split at h
    · cases h; exact hs
    · exact orStall_preserves (fun u hu => hmeaning s _ _ u hs ‹_› hu) (fun u v => ih u v) h

theorem decodeLoop_preserves
    (hmeaning : ∀ s j rest u, P s → s.fq = j :: rest → present .decode j s = .next u → P u.deselect) :
    ∀ (n : Nat) (s t : State), P s → decodeLoop n s = .next t → P t := by
  intro n
  induction n with
  | zero => intro s t hs h; cases h; exact hs
  | succ n ih =>
    intro s t hs h
    unfold decodeLoop at h
    split at h
    · cases h; exact hs
    · exact orStall_preserves (fun u hu => hmeaning s _ _ u hs ‹_› hu) (fun u v => ih u v) h

theorem fetchLoop_preserves
    (hmeaning : ∀ s u, P s → s.fetchPtr < s.progLen → presentFetched s = .next u → P u.deselect) :
    ∀ (n : Nat) (s t : State), P s → fetchLoop n s = .next t → P t := by
  intro n
  induction n with
  | zero => intro s t hs h; cases h; exact hs
  | succ n ih =>
    intro s t hs h
    unfold fetchLoop at h
    split at h
    · exact orStall_preserves (fun u hu => hmeaning s u hs ‹_› hu) (fun u v => ih u v) h
    · cases h; exact hs

end Principles

/-- A completion takes no other instruction out of CQ. -/
theorem mem_cq_of_present_complete {s u : State} {j m : Nat} (h : present .complete j s = .next u)
    (hne : m ≠ j) (hm : m ∈ s.cq) : m ∈ u.deselect.cq := by
  obtain ⟨r, -, hx⟩ := present_eq_next.mp h
  rw [exec_complete r.instr (j := j) rfl] at hx
  obtain ⟨r', -, ⟨-, rfl⟩ | ⟨v, -, hv, rfl⟩⟩ := completeStage_next hx
  · exact hm
  · have hcq : v.cq = s.cq := by
      obtain ⟨-, rfl⟩ | ⟨p, -, -, rfl⟩ := State.markReady_eq_ok.mp hv <;> simp
    simp only [State.deselect_cq, State.advanced_cq, State.updateRecord_cq]
    rw [hcq]
    exact (List.mem_erase_of_ne hne).mpr hm

/-- The principle for `complete`, where only instructions that are in CQ are presented. -/
theorem completeScan_preserves_of_mem {P : State → Prop}
    (hmeaning : ∀ s j u, P s → j ∈ s.cq → present .complete j s = .next u → P u.deselect) :
    ∀ (js : List Nat) (s t : State), js.Nodup → (∀ j ∈ js, j ∈ s.cq) → P s →
      completeScan js s = .next t → P t := by
  intro js
  induction js with
  | nil => intro s t _ _ hs h; cases h; exact hs
  | cons j js ih =>
    intro s t hnd hmem hs h
    obtain ⟨u, hu, hk⟩ := andThen_eq_next.mp h
    obtain ⟨hj, hnd⟩ := List.nodup_cons.mp hnd
    refine ih _ t hnd ?_ (hmeaning s j u hs (hmem j (by simp)) hu) hk
    intro m hm
    exact mem_cq_of_present_complete hu (fun he => hj (he ▸ hm)) (hmem m (by simp [hm]))

/-- What the stages before fetch pass through: the state after each of them. -/
theorem stagesBeforeFetch_eq_next {s t : State} :
    stagesBeforeFetch s = .next t ↔
      ∃ s1 s2 s3 s4 s5, retireLoop s.cfg.width (cycleStart s) = .next s1
        ∧ completeScan s1.candidates s1 = .next s2
        ∧ executeLoop s2.cfg.width s2 = .next s3
        ∧ issueScan s3.scanOrder s3.cfg.width s3 = .next s4
        ∧ dispatchLoop s4.cfg.width s4 = .next s5
        ∧ decodeLoop s5.cfg.width s5 = .next t := by
  unfold stagesBeforeFetch
  simp only [andThen_eq_next]
  constructor
  · rintro ⟨s1, h1, s2, h2, s3, h3, s4, h4, s5, h5, h6⟩
    exact ⟨s1, s2, s3, s4, s5, h1, h2, h3, h4, h5, h6⟩
  · rintro ⟨s1, s2, s3, s4, s5, h1, h2, h3, h4, h5, h6⟩
    exact ⟨s1, h1, s2, h2, s3, h3, s4, h4, s5, h5, h6⟩

/-- A cycle is the stages before fetch, fetch, and the end of the cycle (R130). -/
theorem cycleStep_eq_next {s t : State} :
    cycleStep s = .next t ↔
      ∃ u v, stagesBeforeFetch s = .next u ∧ fetchLoop u.cfg.width u = .next v ∧ t = cycleEnd v := by
  unfold cycleStep
  simp only [andThen_eq_next]
  constructor
  · rintro ⟨u, hu, v, hv, h⟩
    cases h
    exact ⟨u, v, hu, hv, rfl⟩
  · rintro ⟨u, v, hu, hv, rfl⟩
    exact ⟨u, hu, v, hv, rfl⟩

/-- Everything an edge can do: hold the reset state, do nothing after a halt, or perform a cycle (R61, R331). -/
theorem step_eq_next {s t : State} :
    step s = .next t ↔
      s.admission = none
        ∧ ((s.rst = true ∧ t = s.heldInReset)
          ∨ (s.rst = false ∧ s.status ≠ .running ∧ t = s)
          ∨ (s.rst = false ∧ s.status = .running ∧ cycleStep s = .next t)) := by
  unfold step
  cases ha : s.admission with
  | some why => simp
  | none =>
    cases hr : s.rst with
    | true => simp [eq_comm]
    | false => cases hs : s.status <;> simp [eq_comm]

/-- A property that the start of a cycle, every stage and the end of a cycle keep is kept by every cycle.
The property includes that CQ holds no instruction twice. -/
theorem cycleStep_preserves_of_nodup {P : State → Prop}
    (hstart : ∀ s, P s → P (cycleStart s)) (hend : ∀ s, P s → P (cycleEnd s))
    (hretire : ∀ s e u, P s → s.robCount ≠ 0 → s.rob[s.robHead]? = some e →
      present .retire e.inst s = .next u → P u.deselect)
    (hnodup : ∀ s, P s → s.cq.Nodup)
    (hcomplete : ∀ s j u, P s → j ∈ s.cq → present .complete j s = .next u → P u.deselect)
    (hexecute : ∀ s j rest u, P s → s.xq = j :: rest → present .execute j s = .next u → P u.deselect)
    (hissue : ∀ s (k : Nat) (st : Station) (j : Nat) u, P s → s.rs[k]? = some st → st.held = some j →
      present .issue j s = .next u → P u.deselect)
    (hdispatch : ∀ s j rest u, P s → s.dq = j :: rest → present .dispatch j s = .next u → P u.deselect)
    (hdecode : ∀ s j rest u, P s → s.fq = j :: rest → present .decode j s = .next u → P u.deselect)
    (hfetch : ∀ s u, P s → s.fetchPtr < s.progLen → presentFetched s = .next u → P u.deselect)
    {s t : State} (hs : P s) (h : cycleStep s = .next t) : P t := by
  obtain ⟨u, v, hu, hv, rfl⟩ := cycleStep_eq_next.mp h
  obtain ⟨s1, s2, s3, s4, s5, h1, h2, h3, h4, h5, h6⟩ := stagesBeforeFetch_eq_next.mp hu
  have p1 := retireLoop_preserves hretire _ _ _ (hstart s hs) h1
  have p2 := completeScan_preserves_of_mem hcomplete _ _ _
    ((hnodup s1 p1).sublist (List.take_sublist _ _)) (fun j hj => List.mem_of_mem_take hj) p1 h2
  have p3 := executeLoop_preserves hexecute _ _ _ p2 h3
  have p4 := issueScan_preserves hissue _ _ _ _ p3 h4
  have p5 := dispatchLoop_preserves hdispatch _ _ _ p4 h5
  have p6 := decodeLoop_preserves hdecode _ _ _ p5 h6
  exact hend v (fetchLoop_preserves hfetch _ _ _ p6 hv)


/-- A property that the start of a cycle, every stage and the end of a cycle keep is kept by every cycle. -/
theorem cycleStep_preserves {P : State → Prop}
    (hstart : ∀ s, P s → P (cycleStart s)) (hend : ∀ s, P s → P (cycleEnd s))
    (hretire : ∀ s e u, P s → s.robCount ≠ 0 → s.rob[s.robHead]? = some e →
      present .retire e.inst s = .next u → P u.deselect)
    (hcomplete : ∀ s j u, P s → present .complete j s = .next u → P u.deselect)
    (hexecute : ∀ s j rest u, P s → s.xq = j :: rest → present .execute j s = .next u → P u.deselect)
    (hissue : ∀ s (k : Nat) (st : Station) (j : Nat) u, P s → s.rs[k]? = some st → st.held = some j →
      present .issue j s = .next u → P u.deselect)
    (hdispatch : ∀ s j rest u, P s → s.dq = j :: rest → present .dispatch j s = .next u → P u.deselect)
    (hdecode : ∀ s j rest u, P s → s.fq = j :: rest → present .decode j s = .next u → P u.deselect)
    (hfetch : ∀ s u, P s → s.fetchPtr < s.progLen → presentFetched s = .next u → P u.deselect)
    {s t : State} (hs : P s) (h : cycleStep s = .next t) : P t := by
  obtain ⟨u, v, hu, hv, rfl⟩ := cycleStep_eq_next.mp h
  obtain ⟨s1, s2, s3, s4, s5, h1, h2, h3, h4, h5, h6⟩ := stagesBeforeFetch_eq_next.mp hu
  have p1 := retireLoop_preserves hretire _ _ _ (hstart s hs) h1
  have p2 := completeScan_preserves hcomplete _ _ _ p1 h2
  have p3 := executeLoop_preserves hexecute _ _ _ p2 h3
  have p4 := issueScan_preserves hissue _ _ _ _ p3 h4
  have p5 := dispatchLoop_preserves hdispatch _ _ _ p4 h5
  have p6 := decodeLoop_preserves hdecode _ _ _ p5 h6
  exact hend v (fetchLoop_preserves hfetch _ _ _ p6 hv)

end Sys2Proof.Machine
end

