-- ==== Sys2Proof/Laws/Decode.lean ====
section
/-!
SUPPORT. What the decoder can answer, once, and the accessors of a rebuilt instruction.
-/
namespace Sys2Proof

@[simp] theorem Instr.kind_ofKind (k : Kind) (d a b : Operand) : (Instr.ofKind k d a b).kind = k := by
  cases k <;> rfl

@[simp] theorem Instr.dst_ofKind (k : Kind) (d a b : Operand) : (Instr.ofKind k d a b).dst = d := by
  cases k <;> rfl

@[simp] theorem Instr.src1_ofKind (k : Kind) (d a b : Operand) : (Instr.ofKind k d a b).src1 = a := by
  cases k <;> rfl

@[simp] theorem Instr.src2_ofKind (k : Kind) (d a b : Operand) : (Instr.ofKind k d a b).src2 = b := by
  cases k <;> rfl

/-- An instruction is its kind and its operands. -/
@[simp] theorem Instr.ofKind_eta (i : Instr) : Instr.ofKind i.kind i.dst i.src1 i.src2 = i := by
  cases i <;> rfl

/-- What `decodeOperand` accepts: a present index below `A`, or an absent field of zeros. -/
theorem decodeOperand_eq_ok {numArch : Nat} {valid : Bool} {field : BitVec 8} {o : Operand} :
    decodeOperand numArch valid field = .ok o ↔
      (valid = true ∧ field.toNat < numArch ∧ o = some field.toNat)
        ∨ (valid = false ∧ field = 0#8 ∧ o = none) := by
  constructor
  · intro h
    unfold decodeOperand at h
    split at h
    · split at h
      · cases h
      · injection h with h
        exact .inl ⟨‹_›, by omega, h.symm⟩
    · split at h
      · injection h with h
        exact .inr ⟨by simp_all, ‹_›, h.symm⟩
      · cases h
  · rintro (⟨rfl, hlt, rfl⟩ | ⟨rfl, rfl, rfl⟩)
    · have : ¬ numArch ≤ field.toNat := by omega
      simp [decodeOperand, this]
    · rfl

/-- What `decode` accepts: a KIND that is not reserved, RES = 000, and three fields that
`decodeOperand` accepts; the instruction is made of the four. -/
theorem decode_eq_ok {numArch : Nat} {w : Word} {i : Instr} :
    decode numArch w = .ok i ↔
      decodeKind (kindField w) = some i.kind ∧ reservedField w = 0#3
        ∧ decodeOperand numArch (src1Valid w) (src1Field w) = .ok i.src1
        ∧ decodeOperand numArch (src2Valid w) (src2Field w) = .ok i.src2
        ∧ decodeOperand numArch (dstValid w) (dstField w) = .ok i.dst := by
  constructor
  · intro h
    unfold decode at h
    split at h
    · cases h
    · rename_i k hk
      split at h
      · cases h
      · rename_i hr
        split at h
        · cases h
        · rename_i a ha
          split at h
          · cases h
          · rename_i b hb
            split at h
            · cases h
            · rename_i d hd
              injection h with h
              subst h
              exact ⟨by simpa using hk, by simpa using hr, by simpa using ha, by simpa using hb,
                by simpa using hd⟩
  · rintro ⟨hk, hr, ha, hb, hd⟩
    unfold decode
    simp [hk, hr, ha, hb, hd]

/-- The KIND codes (R101). -/
theorem decodeKind_eq_some {k : BitVec 2} {kind : Kind} :
    decodeKind k = some kind ↔
      (k = 0#2 ∧ kind = .alu) ∨ (k = 1#2 ∧ kind = .load) ∨ (k = 2#2 ∧ kind = .store) := by
  cases kind <;> revert k <;> decide

end Sys2Proof
end

