-- ==== Sys2Proof/Laws/Memory.lean ====
section
/-!
SUPPORT. The program store: a read after a write, the canonical form, and the image of a program.
-/
namespace Sys2Proof.Machine

/-! ## Read after write -/

@[simp] theorem Memory.readByte_writeByte_same (m : Memory) (a : Nat) (v : Byte) (h : m.wf = true) :
    (m.writeByte a v).readByte a = v := by
  suffices H : ∀ lo, Memory.wfFrom lo m = true → (m.writeByte a v).readByte a = v from H 0 h
  clear h
  induction m with
  | nil =>
    intro lo _
    by_cases hv : v = 0#8 <;> simp [Memory.writeByte, Memory.readByte, hv]
  | cons c rest ih =>
    obtain ⟨b, x⟩ := c
    intro lo h
    simp only [Memory.wfFrom, Bool.and_eq_true, decide_eq_true_eq] at h
    obtain ⟨⟨-, -⟩, hrest⟩ := h
    have unlisted : ∀ (n : Memory) (l : Nat), Memory.wfFrom l n = true → a < l → n.readByte a = 0#8 := by
      intro n
      induction n with
      | nil => intro _ _ _; rfl
      | cons d ds ihd =>
        obtain ⟨p, y⟩ := d
        intro l hl ha
        simp only [Memory.wfFrom, Bool.and_eq_true, decide_eq_true_eq] at hl
        have hne : a ≠ p := by omega
        simp only [Memory.readByte, hne, if_false]
        exact ihd (p + 1) hl.2 (by omega)
    unfold Memory.writeByte
    by_cases h1 : a < b
    · by_cases hv : v = 0#8
      · have hne : a ≠ b := by omega
        simp only [h1, hv, if_true, Memory.readByte, hne, if_false]
        exact unlisted rest (b + 1) hrest (by omega)
      · simp [h1, hv, Memory.readByte]
    · by_cases h2 : a = b
      · subst h2
        by_cases hv : v = 0#8
        · simp only [lt_irrefl, hv, if_true, if_false]
          exact unlisted rest (a + 1) hrest (by omega)
        · simp [hv, Memory.readByte]
      · simp only [h1, h2, if_false, Memory.readByte]
        exact ih (b + 1) hrest

@[simp] theorem Memory.readByte_writeByte_other (m : Memory) (a c : Nat) (v : Byte) (h : c ≠ a) :
    (m.writeByte a v).readByte c = m.readByte c := by
  induction m with
  | nil => by_cases hv : v = 0#8 <;> simp [Memory.writeByte, Memory.readByte, hv, h]
  | cons d rest ih =>
    obtain ⟨b, x⟩ := d
    unfold Memory.writeByte
    by_cases h1 : a < b
    · by_cases hv : v = 0#8 <;> simp [h1, hv, Memory.readByte, h]
    · by_cases h2 : a = b
      · subst h2
        by_cases hv : v = 0#8 <;> simp [hv, Memory.readByte, h]
      · simp [h1, h2, Memory.readByte, ih]

/-! ## The canonical form -/

theorem Memory.wfFrom_mono {m : Memory} {lo lo' : Nat} (h : Memory.wfFrom lo m = true) (hle : lo' ≤ lo) :
    Memory.wfFrom lo' m = true := by
  cases m with
  | nil => rfl
  | cons c rest =>
    obtain ⟨b, x⟩ := c
    simp only [Memory.wfFrom, Bool.and_eq_true, decide_eq_true_eq] at h ⊢
    exact ⟨⟨by omega, h.1.2⟩, h.2⟩

theorem Memory.wfFrom_writeByte {m : Memory} {lo a : Nat} (v : Byte) (h : Memory.wfFrom lo m = true)
    (ha : lo ≤ a) : Memory.wfFrom lo (m.writeByte a v) = true := by
  induction m generalizing lo with
  | nil => by_cases hv : v = 0#8 <;> simp [Memory.writeByte, Memory.wfFrom, hv, ha]
  | cons c rest ih =>
    obtain ⟨b, x⟩ := c
    have h' := h
    simp only [Memory.wfFrom, Bool.and_eq_true, decide_eq_true_eq] at h'
    obtain ⟨⟨hlo, hx⟩, hrest⟩ := h'
    unfold Memory.writeByte
    by_cases h1 : a < b
    · by_cases hv : v = 0#8
      · simpa [h1, hv] using h
      · simp only [h1, hv, if_true, if_false, Memory.wfFrom, Bool.and_eq_true, decide_eq_true_eq]
        exact ⟨⟨ha, by simpa using hv⟩, ⟨by omega, hx⟩, hrest⟩
    · by_cases h2 : a = b
      · subst h2
        by_cases hv : v = 0#8
        · simp only [lt_irrefl, hv, if_true, if_false]
          exact Memory.wfFrom_mono hrest (by omega)
        · simp only [lt_irrefl, hv, if_true, if_false, Memory.wfFrom, Bool.and_eq_true, decide_eq_true_eq]
          exact ⟨⟨ha, by simpa using hv⟩, hrest⟩
      · simp only [h1, h2, if_false, Memory.wfFrom, Bool.and_eq_true, decide_eq_true_eq]
        exact ⟨⟨hlo, hx⟩, ih hrest (by omega)⟩

/-- Storing a byte keeps the canonical form. -/
theorem Memory.wf_writeByte {m : Memory} (a : Nat) (v : Byte) (h : m.wf = true) :
    (m.writeByte a v).wf = true :=
  Memory.wfFrom_writeByte v h (Nat.zero_le a)

/-- Storing several bytes keeps it. -/
theorem Memory.wf_writeBytes {m : Memory} (a : Nat) (vs : List Byte) (h : m.wf = true) :
    (m.writeBytes a vs).wf = true := by
  induction vs generalizing m a with
  | nil => exact h
  | cons v vs ih => exact ih (a + 1) (Memory.wf_writeByte a v h)

/-- Storing a descriptor keeps it. -/
theorem Memory.wf_writeDescriptor {m : Memory} (i : Nat) (w : Word) (h : m.wf = true) :
    (m.writeDescriptor i w).wf = true :=
  Memory.wf_writeBytes _ _ h

/-- Storing a program keeps it. -/
theorem Memory.wf_writeProgram {m : Memory} (i : Nat) (ws : List Word) (h : m.wf = true) :
    (m.writeProgram i ws).wf = true := by
  induction ws generalizing m i with
  | nil => exact h
  | cons w ws ih => exact ih (i + 1) (Memory.wf_writeDescriptor i w h)

theorem Memory.wf_nil : Memory.wf [] = true := rfl

/-! ## Descriptors -/

@[simp] theorem wordOfBytes_bytesOfWord (w : Word) :
    wordOfBytes (w.extractLsb' 0 8) (w.extractLsb' 8 8) (w.extractLsb' 16 8) (w.extractLsb' 24 8) = w := by
  apply BitVec.eq_of_getLsbD_eq
  intro i hi
  unfold wordOfBytes
  simp only [BitVec.getLsbD_append, BitVec.getLsbD_extractLsb']
  split
  · simp_all
  · split
    · have : 8 + (i - 8) = i := by omega
      have h8 : i - 8 < 8 := by omega
      simp [this, h8]
    · split
      · have : 16 + (i - 8 - 8) = i := by omega
        have h8 : i - 8 - 8 < 8 := by omega
        simp [this, h8]
      · have : 24 + (i - 8 - 8 - 8) = i := by omega
        have h8 : i - 8 - 8 - 8 < 8 := by omega
        simp [this, h8]

/-- A descriptor reads back. -/
theorem Memory.readDescriptor_writeDescriptor_same {m : Memory} (i : Nat) (w : Word) (h : m.wf = true) :
    (m.writeDescriptor i w).readDescriptor i = w := by
  unfold Memory.writeDescriptor Memory.readDescriptor bytesOfWord
  simp only [Memory.writeBytes]
  have w1 := Memory.wf_writeByte (4 * i) (w.extractLsb' 0 8) h
  have w2 := Memory.wf_writeByte (4 * i + 1) (w.extractLsb' 8 8) w1
  have w3 := Memory.wf_writeByte (4 * i + 1 + 1) (w.extractLsb' 16 8) w2
  rw [Memory.readByte_writeByte_other _ _ _ _ (by omega), Memory.readByte_writeByte_other _ _ _ _ (by omega),
    Memory.readByte_writeByte_other _ _ _ _ (by omega), Memory.readByte_writeByte_same _ _ _ h,
    Memory.readByte_writeByte_other _ _ _ _ (by omega), Memory.readByte_writeByte_other _ _ _ _ (by omega),
    Memory.readByte_writeByte_same _ _ _ w1,
    Memory.readByte_writeByte_other _ _ _ _ (by omega), Memory.readByte_writeByte_same _ _ _ w2,
    Memory.readByte_writeByte_same _ _ _ w3]
  exact wordOfBytes_bytesOfWord w

/-- Storing a descriptor leaves every other one alone. -/
theorem Memory.readDescriptor_writeDescriptor_other (m : Memory) {i k : Nat} (w : Word) (h : k ≠ i) :
    (m.writeDescriptor i w).readDescriptor k = m.readDescriptor k := by
  unfold Memory.writeDescriptor Memory.readDescriptor bytesOfWord
  simp only [Memory.writeBytes]
  have o : ∀ n : Nat, n < 4 → ∀ p : Nat, p < 4 → 4 * k + n ≠ 4 * i + p := by omega
  repeat rw [Memory.readByte_writeByte_other _ _ _ _ (by omega)]

/-- A program image below its first index is what it was. -/
theorem Memory.readDescriptor_writeProgram_below (m : Memory) (i k : Nat) (ws : List Word) (h : k < i) :
    (m.writeProgram i ws).readDescriptor k = m.readDescriptor k := by
  induction ws generalizing m i with
  | nil => rfl
  | cons w ws ih =>
    show (Memory.writeProgram (m.writeDescriptor i w) (i + 1) ws).readDescriptor k = _
    rw [ih _ _ (by omega), Memory.readDescriptor_writeDescriptor_other _ _ (by omega)]

end Sys2Proof.Machine
end

