-- ==== Sys2Proof/Laws/PerInstr.lean ====
section
/-!
SUPPORT. The families of statements made per instruction. `OpcodeBits`: the bits of an instruction's word
under the mask of the opcode map are the match of its row (R106), whatever its operands are.
-/
namespace Sys2Proof.Laws

/-- The word of an instruction under the mask 0x000000E3 is its row's match. -/
def OpcodeBits.Statement (i : Instr) : Prop := encode i &&& 0x000000E3#32 = kindCode i.kind

/-- The bits an operand sets are outside the mask. -/
theorem operandBits_outside_mask (o : Operand) :
    operandBits 2 8 o &&& 0x000000E3#32 = 0#32 ∧ operandBits 3 16 o &&& 0x000000E3#32 = 0#32
      ∧ operandBits 4 24 o &&& 0x000000E3#32 = 0#32 := by
  cases o with
  | none => decide
  | some n =>
    have shifted : ∀ v f : Nat, 8 ≤ f → (1#32 <<< v) &&& 0x000000E3#32 = 0#32 →
        operandBits v f (some n) &&& 0x000000E3#32 = 0#32 := by
      intro v f hf hv
      have hlow : (BitVec.ofNat 32 n <<< f) &&& 0x000000E3#32 = 0#32 := by
        apply BitVec.eq_of_getLsbD_eq
        intro i hi
        by_cases h : i < f
        · simp [h]
        · have high : ∀ i < 32, 8 ≤ i → (0x000000E3#32).getLsbD i = false := by decide
          simp [high i hi (by omega)]
      show ((1#32 <<< v) ||| (BitVec.ofNat 32 n <<< f)) &&& 0x000000E3#32 = 0#32
      rw [BitVec.and_comm, BitVec.and_or_distrib_left, BitVec.and_comm _ (1#32 <<< v),
        BitVec.and_comm _ (BitVec.ofNat 32 n <<< f), hv, hlow]
      rfl
    exact ⟨shifted 2 8 (by decide) (by decide), shifted 3 16 (by decide) (by decide),
      shifted 4 24 (by decide) (by decide)⟩

/-- The opcode bits of a word built from a KIND code and three operands. -/
theorem opcodeBits_of_parts (k : Kind) (d a b : Operand) :
    (kindCode k ||| operandBits 2 8 a ||| operandBits 3 16 b ||| operandBits 4 24 d) &&& 0x000000E3#32
      = kindCode k := by
  rw [BitVec.and_comm, BitVec.and_or_distrib_left, BitVec.and_or_distrib_left,
    BitVec.and_or_distrib_left, BitVec.and_comm _ (operandBits 2 8 a),
    BitVec.and_comm _ (operandBits 3 16 b), BitVec.and_comm _ (operandBits 4 24 d),
    (operandBits_outside_mask a).1, (operandBits_outside_mask b).2.1, (operandBits_outside_mask d).2.2]
  cases k <;> decide

theorem OpcodeBits.alu (d s1 s2 : Operand) : OpcodeBits.Statement (.alu d s1 s2) :=
  opcodeBits_of_parts .alu d s1 s2

theorem OpcodeBits.load (d s1 s2 : Operand) : OpcodeBits.Statement (.load d s1 s2) :=
  opcodeBits_of_parts .load d s1 s2

theorem OpcodeBits.store (d s1 s2 : Operand) : OpcodeBits.Statement (.store d s1 s2) :=
  opcodeBits_of_parts .store d s1 s2

end Sys2Proof.Laws
end

