-- ==== Sys2Proof/Tests/Slice0.lean ====
section
/-!
SUPPORT. Small checks. The expected results come from spec/: the example words of 30_encoding.md R110, the
vectors and programs of 95_test_vectors.md, and the worked cycles of R210, R244, R268 and R287. A theorem
witness_<Statement> shows a state and operands that meet the hypotheses of that statement together.
-/
namespace Sys2Proof.Tests

open Sys2Proof.Machine

/-- The next state, if there is one. -/
def after (r : Result) : Option State :=
  match r with
  | .next s => some s
  | _ => none

/-- A configuration with the spec's defaults. -/
def sizes (numArch numPhys robSize width : Nat) : Config :=
  { numArch := numArch, numPhys := numPhys, robSize := robSize, width := width, lsqSize := 0 }

/-! ## Well-formedness and legal configurations: each check refuses -/

theorem test_wellFormed_refuses_destination : Instr.wellFormed 4 (.alu (some 4) none none) = false := by decide
theorem test_wellFormed_refuses_source1 : Instr.wellFormed 4 (.load none (some 4) none) = false := by decide
theorem test_wellFormed_refuses_source2 : Instr.wellFormed 4 (.store none none (some 4)) = false := by decide
theorem test_wellFormed_accepts : Instr.wellFormed 4 (.store (some 3) (some 0) none) = true := by decide

theorem test_legal_refuses :
    [sizes 0 8 4 2, sizes 257 300 4 2, sizes 4 3 4 2, sizes 4 8 0 2, sizes 4 8 4 0,
      { sizes 4 8 4 2 with capFQ := 0 }, { sizes 4 8 4 2 with capDQ := 0 },
      { sizes 4 8 4 2 with capXQ := 0 }, { sizes 4 8 4 2 with capCQ := 0 }].map Config.legal
      = List.replicate 9 false := by decide

/-- The bounds themselves are legal, and so is a station list that is empty (R17). -/
theorem test_legal_accepts :
    [sizes 1 1 1 1, sizes 256 256 1 1, { sizes 4 8 4 2 with stations := [] }].map Config.legal
      = List.replicate 3 true := by decide

/-! ## Descriptor words, written bit by bit from R100: D, S2, S1, RES, DV, S2V, S1V, KIND -/

theorem test_decode_alu :
    decode 4 0b00000001000000000000000000011100 = .ok (.alu (some 1) (some 0) (some 0)) := by rfl
theorem test_decode_load :
    decode 4 0b00000001000000000000000000010101 = .ok (.load (some 1) (some 0) none) := by rfl
theorem test_decode_store :
    decode 4 0b00000000000000000000001000001110 = .ok (.store none (some 2) (some 0)) := by rfl
/-- V-E16: the field order of S2 and D. -/
theorem test_decode_source2_field :
    decode 256 0b00000000111111110000000000001000 = .ok (.alu none none (some 255)) := by rfl
/-- The same from the little-endian bytes of the image (V-E6). -/
theorem test_decodeBytes :
    decodeBytes 4 [0x1E, 0x01, 0x02, 0x03, 0xAA] = some (.store (some 3) (some 1) (some 2), [0xAA]) := by decide
theorem test_decodeTableWord :
    decodeTableWord 32 0x0302011E = some (.store (some 3) (some 1) (some 2)) := by decide
/-- V-E1 to V-E6. -/
theorem test_encode :
    [encode (.alu (some 1) (some 0) (some 0)), encode (.alu (some 2) (some 1) (some 0)),
      encode (.load (some 1) (some 0) none), encode (.store none (some 2) (some 0)),
      encode (.alu none none none), encode (.store (some 3) (some 1) (some 2))]
      = [0x0100001C, 0x0200011C, 0x01000015, 0x0000020E, 0x00000000, 0x0302011E] := by decide
/-- The refusals V-E20 to V-E26 and V-E28; V-E27 is accepted. -/
theorem test_decode_refusals :
    decode 4 0x00000003 = .error .reservedKind ∧ decode 4 0x00000020 = .error .reservedBits
    ∧ decode 4 0x00000080 = .error .reservedBits ∧ decode 4 0x00000100 = .error .nonzeroAbsentField
    ∧ decode 4 0x01000000 = .error .nonzeroAbsentField
    ∧ decode 1 0x0000011C = .error .registerOutOfRange
    ∧ decode 1 0x0100001C = .error .registerOutOfRange
    ∧ decode 256 0xFFFFFFFF = .error .reservedKind
    ∧ decode 2 0x0000011C = .ok (.alu (some 0) (some 1) (some 0)) :=
  ⟨rfl, rfl, rfl, rfl, rfl, rfl, rfl, rfl, rfl⟩
theorem test_assemble : assemble 4 ['l', 'o', 'a', 'd', ' ', 'r', '1', ',', ' ', 'r', '0', ',', ' ', '-']
    = some 0x01000015 := by decide
theorem test_assemble_refuses_register : assemble 1 ['A', 'L', 'U', ' ', 'r', '1', ',', '-', ',', '-'] = none := by
  decide

/-! ## Small states -/

/-- Program P1: `ALU r1, r0, r0` and `ALU r2, r1, r0`. -/
def p1 : State := State.load (sizes 3 8 4 2) [0x0100001C, 0x0200011C]

/-- P1 with both instructions decoded, before its cycle 3. -/
def p1Decoded : State := { p1 with cycle := 3, fetchPtr := 2, dq := [0, 1] }

/-- A record that has passed the first stages; the timestamps of the others stay unset. -/
def passed (i : Instr) (fetch decode dispatch issue : Int) : InstrRecord :=
  { InstrRecord.fresh i with
    renamed := true
    issued := true
    rdy1 := true
    rdy2 := true
    ts := { fetch := fetch, decode := decode, dispatch := dispatch, issue := issue } }

/-- P1 before its cycle 7: instruction 0 has completed, instruction 1 has issued. -/
def p1Issued : State :=
  { p1 with
    cycle := 7
    fetchPtr := 2
    xq := [1]
    specMap := [0, 3, 4]
    specReady := [true, true, true, true, false, false, false, false]
    freeList := [5, 6, 7]
    rob := p1.rob.set 0 ⟨0, some 3, some 1⟩ |>.set 1 ⟨1, some 4, some 2⟩
    robCount := 2
    rs := p1.rs.set 1 ⟨true, some 1⟩
    recs :=
      [{ passed (.alu (some 1) (some 0) (some 0)) 1 2 3 4 with
          ps1 := some 0, ps2 := some 0, pd := some 3, completed := true, lat := 1
          ts := { fetch := 1, decode := 2, dispatch := 3, issue := 4, execute := 5, complete := 6 } },
        { passed (.alu (some 2) (some 1) (some 0)) 1 2 3 6 with
          ps1 := some 3, ps2 := some 0, pd := some 4, rsIdx := some 1 }] }

/-- One instruction without a destination, `STORE -, r0, -`, of a block with one register and W = 1. -/
def lone : State := State.load (sizes 1 1 1 1) [0x00000006]

/-- `lone` with its instruction in flight in the ROB. -/
def loneRob : State := { lone with cycle := 6, rob := [⟨0, none, none⟩], robCount := 1 }

/-- `lone` with a given record. -/
def loneWith (f : InstrRecord → InstrRecord) : State := { loneRob with recs := loneRob.recs.map f }

/-- V-D6 before its cycle 3: `ALU r0, r0, r0` with P = A at the head of DQ. -/
def stuck : State :=
  { State.load (sizes 1 1 1 1) [0x0000001C] with cycle := 3, fetchPtr := 1, dq := [0] }

/-- What `stuck` leaves, with the timestamps of its two stages: V-D6 at its abort. -/
def abortedRun : State :=
  { stuck with
    status := .aborted
    recs := stuck.recs.map fun r => { r with ts := { fetch := 1, decode := 2 } } }

/-- `ALU -, -, -` alone, run to DONE: the timestamps of P1's first instruction. -/
def finished : State :=
  { State.load (sizes 1 1 1 1) [0x00000000] with
    cycle := 7
    status := .done
    fetchPtr := 1
    nRetired := 1
    recs := [{ InstrRecord.fresh (.alu none none none) with
      renamed := true, issued := true, completed := true, retired := true, lat := 1
      ts := ⟨1, 2, 3, 4, 5, 6, 7⟩ }] }

/-! ## Each instruction, one step -/

/-- R210: dispatch of `ALU r1, r0, r0` takes P3 and station ALU0, with both sources ready. -/
theorem test_alu_dispatches :
    (after (exec (.alu (some 1) (some 0) (some 0)) (p1Decoded.select .dispatch 0))).map (fun t =>
      (t.specMap, t.freeList, t.rob.head?, t.dq, (t.recs.head?.map fun r => (r.ps1, r.rdy1, r.pd))))
      = some ([0, 3, 2], [4, 5, 6, 7], some ⟨0, some 3, some 1⟩, [1], some (some 0, true, some 3)) := by rfl
/-- R268: completion of instruction 0 of P1 in cycle 6 wakes instruction 1, whose source 1 is P3. -/
theorem test_alu_completes :
    (after (exec (.alu (some 1) (some 0) (some 0))
      { p1Issued with
        cycle := 6
        cq := [0]
        specReady := p1Issued.specReady.set 3 false
        recs := p1Issued.recs.modify 1 fun r => { r with rdy1 := false }
        active := some ⟨.complete, 0⟩ })).map (fun t =>
      (t.cq, t.specReady[3]?, (t.recs[1]?.map InstrRecord.rdy1), t.compOut))
      = some ([], some true, some true, [0]) := by decide
/-- P5, cycle 5: the LOAD leaves LOAD0 with latency 2. -/
theorem test_load_executes :
    (after (exec (.load (some 1) (some 0) none)
      { State.load (sizes 2 3 2 1) [0x01000015] with
        cycle := 5
        xq := [0]
        rs := [⟨false, none⟩, ⟨false, none⟩, ⟨true, some 0⟩, ⟨false, none⟩]
        recs := [{ InstrRecord.fresh (.load (some 1) (some 0) none) with rsIdx := some 2 }]
        active := some ⟨.execute, 0⟩ })).map (fun t =>
      (t.xq, t.cq, (t.recs.head?.map fun r => (r.lat, r.ts.execute, r.rsIdx)), t.rs[2]?))
      = some ([], [0], some (2, 5, none), some ⟨false, none⟩) := by rfl
/-- R202: a LOAD takes the LOAD station. -/
theorem test_load_station : p1.freeStation .load = some 2 := by decide
/-- R203: a STORE without a destination dispatches to STORE0 though the free list is empty. -/
theorem test_store_dispatches :
    (after (exec (.store none (some 0) none)
      { lone with dq := [0], active := some ⟨.dispatch, 0⟩ })).map (fun t =>
      (t.rs[3]?, t.rob, t.freeList, t.specMap))
      = some (some ⟨true, some 0⟩, [⟨0, none, none⟩], [], [0]) := by decide
/-- R286: its retirement releases nothing. -/
theorem test_store_retires :
    (after (exec (.store none (some 0) none)
      { loneWith InstrRecord.markCompleted with active := some ⟨.retire, 0⟩ })).map (fun t =>
      (t.pendingFree, t.archMap, t.nRetired, t.robCount, t.robHead)) = some ([], [0], 1, 0, 0) := by decide

/-! ## One clock edge -/

/-- V-F1: cycle 1 fetches W instructions. -/
theorem test_step_fetches :
    (after (step p1)).map (fun t => (t.fq, t.fetchPtr, t.cycle, t.trace))
      = some ([0, 1], 2, 2, [⟨1, .fetch, 0⟩, ⟨1, .fetch, 1⟩]) := by decide
/-- P1, cycle 3: both instructions dispatch, and the second reads the first one's P3. -/
theorem test_step_dispatches :
    (after (step p1Decoded)).map (fun t => (t.specMap, t.freeList, t.robCount, t.recs.map InstrRecord.ps1))
      = some ([0, 3, 4], [5, 6, 7], 2, [some 0, some 3]) := by decide
/-- P1, cycle 7: RETIRE 0 with Told = P1, then EXECUTE 1 (R287). -/
theorem test_step_retires :
    (after (step p1Issued)).map (fun t => (t.archMap, t.pendingFree, t.cq, t.trace))
      = some ([0, 3, 2], [1], [1], [⟨7, .retire, 0⟩, ⟨7, .execute, 1⟩]) := by decide
/-- V-D6: the run ends ABORTED in cycle 3. -/
theorem test_step_aborts : (after (step stuck)).map (fun t => (t.status, t.cycle, t.dq)) = some (.aborted, 3, [0]) := by
  decide
/-- V-W4: the empty program ends DONE in cycle 1. -/
theorem test_step_empty_program : (after (step State.reset)).map (fun t => (t.status, t.cycle)) = some (.done, 1) := by
  decide
/-- A program of one descriptor, placed from outside, is fetched by the very next step. -/
theorem test_withFetchWord :
    (after (step (State.reset.withFetchWord 32 0x0302011E))).map (fun t => (t.fq, t.recs.map InstrRecord.instr))
      = some ([0], [.store (some 3) (some 1) (some 2)]) := by decide
/-- The report and the dump of an aborted run: the stages not reached show -1 (R304, R307). -/
theorem test_aborted_outputs : abortedRun.report = some [[1, 2, -1, -1, -1, -1, -1]] ∧ abortedRun.dump = some abortedRun := by
  decide
/-- V-T2: a row of the report. -/
theorem test_report : finished.report = some [[1, 2, 3, 4, 5, 6, 7]] := by decide

/-! ## Good states -/

theorem p1Issued_structured : p1Issued.Structured := by
  constructor
  · constructor
    case loaded => rfl
    all_goals decide
  · constructor <;> decide

theorem p1Issued_conserved : p1Issued.Conserved := by constructor <;> decide

theorem p1Issued_renamed : p1Issued.Renamed := by constructor <;> decide

theorem p1Issued_timed : p1Issued.Timed := by
  constructor
  case monotone =>
    intro j hj
    have : j < 2 := hj
    interval_cases j <;> refine ⟨?_, ?_, ?_, ?_, ?_, ?_⟩ <;> decide
  all_goals decide

theorem p1Issued_good : p1Issued.Good :=
  ⟨p1Issued_structured, p1Issued_conserved, p1Issued_renamed, p1Issued_timed⟩

theorem p1Issued_performs : p1Issued.performsCycle := by decide

theorem p1Issued_steps : ∃ t, step p1Issued = .next t := ⟨_, rfl⟩

/-! ## Witnesses: descriptor words -/

theorem witness_DecodeOfEncode :
    256 ≤ 256 ∧ (Instr.store (some 255) (some 0) none).wellFormed 256 = true := by decide
theorem witness_EncodeOfDecode : decode 256 0x00FF0008 = .ok (.alu none none (some 255)) := rfl
theorem witness_ReservedEncodingsRefused :
    (0xFFFFFFFF#32).toNat % 4 = 3 ∧ (0x00000080#32).toNat % 4 ≠ 3 ∧ (0x00000080#32).toNat / 32 % 8 ≠ 0 := by
  decide
/-- One word for each way to be refused, at the least value that is. -/
theorem witness_ReservedEncodingsRefused_clauses :
    (0x00000100#32).toNat / 256 % 256 ≠ 0 ∧ (0x00010000#32).toNat / 65536 % 256 ≠ 0
    ∧ (0x01000000#32).toNat / 16777216 ≠ 0 ∧ 1 ≤ (0x00000104#32).toNat / 256 % 256
    ∧ 1 ≤ (0x00010008#32).toNat / 65536 % 256 ∧ 1 ≤ (0x01000010#32).toNat / 16777216 := by decide
theorem test_least_refused_words :
    decode 1 0x00000100 = .error .nonzeroAbsentField ∧ decode 1 0x00010000 = .error .nonzeroAbsentField
    ∧ decode 1 0x01000000 = .error .nonzeroAbsentField ∧ decode 1 0x00000104 = .error .registerOutOfRange
    ∧ decode 1 0x00010008 = .error .registerOutOfRange ∧ decode 1 0x01000010 = .error .registerOutOfRange :=
  ⟨rfl, rfl, rfl, rfl, rfl, rfl⟩
theorem witness_OpcodeMapSelectsKind :
    decode 4 0x0100001C = .ok (.alu (some 1) (some 0) (some 0))
    ∧ decode 4 0x01000015 = .ok (.load (some 1) (some 0) none)
    ∧ decode 4 0x0000020E = .ok (.store none (some 2) (some 0)) := ⟨rfl, rfl, rfl⟩
theorem witness_AssemblyReadsBack : (Instr.load (some 0) (some 255) none).wellFormed 256 = true := by decide

/-! ## Witnesses: the edge -/

theorem witness_RefusedInputHasNoStep :
    ({ p1 with cfg := sizes 3 2 4 2 }).cfg.legal = false
    ∧ (State.load (sizes 1 1 1 1) [0x00000000, 0x00000003]).cfg.legal = true
    ∧ (State.load (sizes 1 1 1 1) [0x00000000, 0x00000003]).progRead 1 = some 0x00000003
    ∧ decode 1 0x00000003 = .error .reservedKind := ⟨by decide, by decide, by decide, rfl⟩
theorem witness_HaltedBlockIgnoresEdges :
    (finished.admission = none ∧ finished.rst = false ∧ finished.status ≠ .running)
    ∧ ({ stuck with status := .aborted }).admission = none
    ∧ ({ stuck with status := .aborted }).status ≠ .running := by decide
theorem witness_AssertedResetRestoresResetState :
    ({ p1Issued with rst := true }).admission = none
    ∧ ({ p1Issued with rst := true }).program = .ok (p1Issued.recs.map InstrRecord.instr)
    ∧ ({ p1Issued with rst := true }).rst = true := ⟨by decide, rfl, rfl⟩
theorem witness_EmptyProgramEndsDone :
    ({ sizes 1 1 1 1 with watchdogMode := .literalRule } : Config).legal = true ∧ (sizes 256 256 1 1).legal = true := by
  decide
theorem witness_StepRunsDecodedInstruction :
    p1.performsCycle ∧ p1.cfg.width = 1 + 1 ∧ p1.fetchPtr < p1.progLen
    ∧ decode p1.cfg.numArch
        (wordOfBytes (p1.prog.readByte (4 * p1.fetchPtr)) (p1.prog.readByte (4 * p1.fetchPtr + 1))
          (p1.prog.readByte (4 * p1.fetchPtr + 2)) (p1.prog.readByte (4 * p1.fetchPtr + 3)))
        = .ok (.alu (some 1) (some 0) (some 0))
    ∧ ∃ u, stagesBeforeFetch p1 = .next u :=
  ⟨by decide, rfl, by decide, rfl, _, rfl⟩
theorem witness_StagesRunDecodedInstruction :
    p1Issued.Shaped ∧ p1Issued.progRead 1 = some 0x0200011C
    ∧ decode p1Issued.cfg.numArch 0x0200011C = .ok (.alu (some 2) (some 1) (some 0)) :=
  ⟨p1Issued_structured.shaped, by decide, rfl⟩

/-! ## Witnesses: the stages -/

theorem witness_FetchAdvancesInstruction :
    ({ p1 with fq := [7], active := some ⟨.fetch, 0⟩ }).active = some ⟨.fetch, 0⟩
    ∧ ({ p1 with fq := [7] }).fq.length < p1.cfg.capFQ := by decide
theorem witness_DecodeAdvancesInstruction :
    ({ p1 with fq := [0], active := some ⟨.decode, 0⟩ }).active = some ⟨.decode, 0⟩
    ∧ p1.dq.length < p1.cfg.capDQ := by decide
theorem witness_DispatchRenamesDestination :
    (p1Decoded.select .dispatch 0).active = some ⟨.dispatch, 0⟩ ∧ p1Decoded.robCount < p1Decoded.cfg.robSize
    ∧ p1Decoded.rob.length = p1Decoded.cfg.robSize ∧ p1Decoded.freeStation .alu = some 0
    ∧ p1Decoded.mapsSources (.alu (some 1) (some 0) (some 0))
    ∧ p1Decoded.freeList = 3 :: [4, 5, 6, 7] ∧ p1Decoded.specMap[1]? = some 1 ∧ 3 < p1Decoded.specReady.length :=
  ⟨by decide, by decide, by decide, by decide,
    ⟨fun a ha => ⟨0, by cases ha; decide, by decide⟩, fun a ha => ⟨0, by cases ha; decide, by decide⟩⟩,
    by decide, by decide, by decide⟩
theorem witness_DispatchWithoutDestination :
    ({ lone with dq := [0], active := some ⟨.dispatch, 0⟩ }).active = some ⟨.dispatch, 0⟩
    ∧ lone.robCount < lone.cfg.robSize ∧ lone.rob.length = lone.cfg.robSize
    ∧ lone.freeStation (Instr.store none (some 0) none).kind = some 3
    ∧ lone.mapsSources (.store none (some 0) none) ∧ (Instr.store none (some 0) none).dst = none
    ∧ lone.freeList = [] :=
  ⟨by decide, by decide, by decide, by decide,
    ⟨fun a ha => ⟨0, by cases ha; decide, by decide⟩, fun a ha => by cases ha⟩, rfl, by decide⟩
theorem witness_DispatchAllocatesEntryAndStation :
    (p1Decoded.select .dispatch 0).active = some ⟨.dispatch, 0⟩ ∧ 0 < p1Decoded.recs.length
    ∧ ∃ t, exec (.alu (some 1) (some 0) (some 0)) (p1Decoded.select .dispatch 0) = .next t
      ∧ t ≠ p1Decoded.select .dispatch 0 :=
  ⟨rfl, by decide, _, rfl, by decide⟩
/-- The source that is present is ready; the absent one is not asked. -/
theorem witness_IssueAdvancesInstruction :
    ∃ r, (loneRob.select .issue 0).active = some ⟨.issue, 0⟩
      ∧ (loneWith fun r => { r with rdy1 := true }).recs[0]? = some r
      ∧ loneRob.xq.length < loneRob.cfg.capXQ ∧ r.issued = false ∧ r.rdy1 = true
      ∧ (Instr.store none (some 0) none).src2 = none :=
  ⟨{ InstrRecord.fresh (.store none (some 0) none) with rdy1 := true }, rfl, by decide, by decide, rfl, rfl, rfl⟩
theorem witness_IssueReadsOwnSnapshot :
    ∃ r, (loneRob.select .issue 0).active = some ⟨.issue, 0⟩ ∧ loneRob.recs[0]? = some r := ⟨_, rfl, rfl⟩
theorem witness_ExecuteAdvancesInstruction :
    ∃ r, (p1Issued.select .execute 1).active = some ⟨.execute, 1⟩
      ∧ p1Issued.cq.length < p1Issued.cfg.capCQ ∧ p1Issued.recs[1]? = some r ∧ r.rsIdx = some 1
      ∧ p1Issued.stationType 1 = some .alu :=
  ⟨_, rfl, by decide, rfl, rfl, by decide⟩
/-- At the deadline exactly: executed in cycle 5 with latency 1, in cycle 6. -/
theorem witness_CompleteWithDestination :
    ∃ r, ({ p1Issued with cycle := 6, active := some ⟨.complete, 0⟩ }).active = some ⟨.complete, 0⟩
      ∧ p1Issued.recs[0]? = some r ∧ r.ts.execute + r.lat ≤ ((6 : Nat) : Int) ∧ r.pd = some 3
      ∧ 3 < p1Issued.specReady.length :=
  ⟨p1Issued.record 0, rfl, by decide, by decide, by decide, by decide⟩
theorem witness_CompleteWithoutDestination :
    ∃ r, (loneRob.select .complete 0).active = some ⟨.complete, 0⟩
      ∧ (loneWith fun r => { r with lat := 2, ts := { r.ts with execute := 4 } }).recs[0]? = some r
      ∧ r.ts.execute + r.lat ≤ (loneRob.cycle : Int) ∧ r.pd = none :=
  ⟨{ InstrRecord.fresh (.store none (some 0) none) with lat := 2, ts := { execute := 4 } }, rfl, by decide,
    by decide, rfl⟩
/-- Both halves: a destination, at register 1 of 3; and none. -/
theorem witness_RetireCommitsAndReleases :
    (∃ r e, (p1Issued.select .retire 0).active = some ⟨.retire, 0⟩ ∧ p1Issued.robCount ≠ 0
      ∧ p1Issued.rob[p1Issued.robHead]? = some e ∧ p1Issued.recs[0]? = some r ∧ r.completed = true
      ∧ 1 < p1Issued.archMap.length ∧ e.newTag = some 3 ∧ e.oldTag = some 1)
    ∧ ∃ r e, (loneRob.select .retire 0).active = some ⟨.retire, 0⟩ ∧ loneRob.robCount ≠ 0
      ∧ loneRob.rob[loneRob.robHead]? = some e ∧ (loneWith InstrRecord.markCompleted).recs[0]? = some r
      ∧ r.completed = true ∧ (Instr.store none (some 0) none).dst = none :=
  ⟨⟨_, _, rfl, by decide, rfl, rfl, rfl, by decide, rfl, rfl⟩,
    { InstrRecord.fresh (.store none (some 0) none) with completed := true }, ⟨0, none, none⟩, rfl, by decide, rfl,
    by decide, rfl, rfl⟩
/-- Each stall, at the boundary of its condition. -/
theorem witness_StallLeavesStateUnchanged :
    p1.cfg.capFQ ≤ ({ p1 with fq := [0, 1] }).fq.length ∧ p1.cfg.capDQ ≤ p1Decoded.dq.length
    ∧ loneRob.cfg.robSize ≤ loneRob.robCount
    ∧ ({ lone with rs := lone.rs.set 3 ⟨true, some 0⟩ }).freeStation .store = none ∧ stuck.freeList = []
    ∧ lone.cfg.capXQ ≤ ({ lone with xq := [0] }).xq.length
    ∧ (p1Issued.recs[1]?.map InstrRecord.issued) = some true
    ∧ (lone.recs[0]?.map InstrRecord.rdy1) = some false
    ∧ lone.cfg.capCQ ≤ ({ lone with cq := [0] }).cq.length
    ∧ ((5 : Nat) : Int) < (5 + 1 : Int) ∧ lone.robCount = 0
    ∧ loneRob.robHead < loneRob.rob.length ∧ (loneRob.recs[0]?.map InstrRecord.completed) = some false := by
  decide
theorem witness_KindEntersOnlyAtDispatch : ∀ j, (p1.select .issue 0).active ≠ some ⟨.dispatch, j⟩ := by
  intro j h
  simp [State.select] at h
theorem witness_NoInstructionWritesMemory :
    ∃ t, exec (.load (some 1) (some 0) none) (p1.select .fetch 0) = .next t := ⟨_, rfl⟩
theorem witness_EachStageWritesItsOwnState :
    ∃ t, (p1Issued.select .retire 0).active = some ⟨.retire, 0⟩
      ∧ exec (.alu (some 1) (some 0) (some 0)) (p1Issued.select .retire 0) = .next t := ⟨_, rfl, rfl⟩

/-! ## Witnesses: the shared operations -/

theorem witness_FreeStationIsLowest : p1Issued.rs.length = p1Issued.cfg.stations.length := by decide
theorem witness_ScanOrderFollowsPolicy :
    p1.cfg.issuePolicy = .stationOrder
    ∧ ({ p1Issued with cfg := { p1.cfg with issuePolicy := .oldestFirst } }).scanOrder = [1, 0, 2, 3] := by decide
theorem witness_BroadcastWakesMatchingSources : ∃ r, p1Issued.recs[1]? = some r := ⟨_, rfl⟩

/-! ## Witnesses: one cycle, the invariants, the whole machine -/

/-- The hypotheses that the statements about one cycle share; `p1Issued` retires in that cycle. -/
theorem witness_one_cycle : p1Issued.performsCycle ∧ ∃ t, step p1Issued = .next t :=
  ⟨p1Issued_performs, p1Issued_steps⟩
theorem witness_StepKeepsProgramAndConfiguration : p1Issued.performsCycle ∧ ∃ t, step p1Issued = .next t :=
  witness_one_cycle
theorem witness_CycleEndsAsWatchdogSays :
    (p1Issued.performsCycle ∧ (after (step p1Issued)).map State.status = some .running)
    ∧ (stuck.performsCycle ∧ (after (step stuck)).map State.status = some .aborted)
    ∧ (State.reset.performsCycle ∧ (after (step State.reset)).map State.status = some .done) := by decide
theorem witness_CycleNumbersAreConsecutive :
    (State.load (sizes 3 8 4 2) [0x0100001C, 0x0200011C]).admission = none
    ∧ ∃ t, State.run 2 (State.load (sizes 3 8 4 2) [0x0100001C, 0x0200011C]) = .next t ∧ t.status = .running :=
  ⟨by decide, _, rfl, rfl⟩
theorem witness_ProgressExactlyWhenTraced : p1Issued.performsCycle ∧ ∃ t, step p1Issued = .next t :=
  witness_one_cycle
theorem witness_TraceFollowsStageOrder : p1Issued.performsCycle ∧ ∃ t, step p1Issued = .next t :=
  witness_one_cycle
theorem witness_StageAdvancesAtMostWidth : p1Issued.performsCycle ∧ ∃ t, step p1Issued = .next t :=
  witness_one_cycle
theorem witness_LogsHoldThisCyclesAdvances : p1Issued.performsCycle ∧ ∃ t, step p1Issued = .next t :=
  witness_one_cycle
/-- The pointer before the end of the program, and at it. -/
theorem witness_FetchPointerCountsFetches :
    (p1.performsCycle ∧ p1.fetchPtr ≤ p1.progLen ∧ ∃ t, step p1 = .next t)
    ∧ (p1Issued.performsCycle ∧ p1Issued.progLen ≤ p1Issued.fetchPtr ∧ ∃ t, step p1Issued = .next t) :=
  ⟨⟨by decide, by decide, _, rfl⟩, p1Issued_performs, by decide, _, rfl⟩
theorem witness_ReleasedRegistersWaitOneCycle :
    p1Issued.Structured ∧ p1Issued.Conserved ∧ p1Issued.performsCycle ∧ ∃ t, step p1Issued = .next t :=
  ⟨p1Issued_structured, p1Issued_conserved, p1Issued_performs, p1Issued_steps⟩
theorem witness_OneAdvancePerInstructionPerCycle :
    p1Issued.Structured ∧ p1Issued.Timed ∧ p1Issued.performsCycle ∧ ∃ t, step p1Issued = .next t :=
  ⟨p1Issued_structured, p1Issued_timed, p1Issued_performs, p1Issued_steps⟩
theorem witness_LoadedProgramIsGood : (State.load (sizes 3 8 4 2) [0x0100001C, 0x0200011C]).admission = none := by
  decide
theorem witness_StepKeepsStructure : p1Issued.Structured ∧ ∃ t, step p1Issued = .next t :=
  ⟨p1Issued_structured, p1Issued_steps⟩
theorem witness_StepConservesRegisters :
    p1Issued.Structured ∧ p1Issued.Conserved ∧ ∃ t, step p1Issued = .next t :=
  ⟨p1Issued_structured, p1Issued_conserved, p1Issued_steps⟩
theorem witness_SpeculativeMapIsInjective : p1Issued.Conserved := p1Issued_conserved
theorem witness_StepKeepsRenaming :
    p1Issued.Structured ∧ p1Issued.Conserved ∧ p1Issued.Renamed ∧ ∃ t, step p1Issued = .next t :=
  ⟨p1Issued_structured, p1Issued_conserved, p1Issued_renamed, p1Issued_steps⟩
theorem witness_StepKeepsTimestampOrder : p1Issued.Good ∧ ∃ t, step p1Issued = .next t :=
  ⟨p1Issued_good, p1Issued_steps⟩
theorem witness_StepKeepsCompletionOnTime :
    p1Issued.Good ∧ p1Issued.cfg.capCQ ≤ p1Issued.cfg.width ∧ p1Issued.OnTime
    ∧ ∃ t, step p1Issued = .next t :=
  ⟨p1Issued_good, by decide, by constructor <;> decide, p1Issued_steps⟩
theorem witness_EveryRunStaysGood : (State.load (sizes 3 8 4 2) [0x0100001C, 0x0200011C]).admission = none := by
  decide
theorem witness_NoStepStops : p1Issued.Structured ∧ p1Issued.Conserved ∧ p1Issued.Renamed :=
  ⟨p1Issued_structured, p1Issued_conserved, p1Issued_renamed⟩

theorem p1Issued_resourced : p1Issued.Resourced := by
  constructor
  · decide
  · decide
  · intro _; decide

theorem witness_NoAbortWithResources :
    p1Issued.Good ∧ p1Issued.Resourced ∧ p1Issued.performsCycle ∧ ∃ t, step p1Issued = .next t :=
  ⟨p1Issued_good, p1Issued_resourced, p1Issued_performs, p1Issued_steps⟩
theorem witness_RunEndsDone : p1Issued.Good ∧ p1Issued.Resourced ∧ p1Issued.performsCycle :=
  ⟨p1Issued_good, p1Issued_resourced, p1Issued_performs⟩
theorem witness_AbortIsPermanent :
    stuck.active = none ∧ stuck.performsCycle ∧ stuck.cfg.watchdogMode = .latencyAware
    ∧ ∃ t, step stuck = .next t ∧ t.status = .aborted :=
  ⟨rfl, by decide, rfl, _, rfl, rfl⟩
/-- Both halves: a cycle after which every instruction has retired, and a DONE state. -/
theorem witness_DoneReportIsComplete :
    (State.reset.performsCycle ∧ ∃ t, step State.reset = .next t ∧ t.nRetired = t.progLen)
    ∧ finished.Structured ∧ finished.status = .done := by
  refine ⟨⟨by decide, _, rfl, rfl⟩, ⟨?_, ?_⟩, rfl⟩
  · constructor
    case loaded => rfl
    all_goals decide
  · constructor <;> decide
theorem witness_ConsumerIssuesAfterProducer :
    p1Issued.Good ∧ 1 < p1Issued.progLen ∧ (p1Issued.record 1).issued = true
    ∧ (p1Issued.record 1).instr.src1 = some 1 ∧ p1Issued.lastWriter 1 1 = some 0 :=
  ⟨p1Issued_good, by decide, by decide, by decide, by decide⟩
/-- The permutation that swaps P0 and P7, the ends of the range. -/
theorem witness_RelabellingCommutesWithStep :
    (∀ p, Equiv.swap 0 7 p < p1Issued.cfg.numPhys ↔ p < p1Issued.cfg.numPhys)
    ∧ p1Issued.specReady.length = p1Issued.cfg.numPhys ∧ p1Issued.performsCycle := by
  refine ⟨fun p => ?_, by decide, p1Issued_performs⟩
  show Equiv.swap 0 7 p < 8 ↔ p < 8
  rw [Equiv.swap_apply_def]
  split_ifs <;> omega
theorem witness_ReportIgnoresFreeListOrder :
    [7, 6, 5, 4, 3].Perm (State.load (sizes 3 8 4 2) [0x0100001C, 0x0200011C]).freeList
    ∧ ∃ t, State.run 1 (State.load (sizes 3 8 4 2) [0x0100001C, 0x0200011C]) = .next t :=
  ⟨by decide, _, rfl⟩
/-- All four parts: an aborting cycle, a running state, and halted states at both outcomes. -/
theorem witness_HaltedOutputsShowTheRun :
    (stuck.performsCycle ∧ ∃ t, step stuck = .next t ∧ t.status = .aborted)
    ∧ (p1.status ≠ .aborted ∧ p1.status = .running)
    ∧ (abortedRun.Structured ∧ abortedRun.status ≠ .running ∧ 0 < abortedRun.recs.length)
    ∧ finished.Structured ∧ finished.status ≠ .running ∧ 0 < finished.recs.length := by
  refine ⟨⟨by decide, _, rfl, rfl⟩, by decide, ⟨⟨?_, ?_⟩, by decide, by decide⟩,
    witness_DoneReportIsComplete.2.1, by decide, by decide⟩
  · constructor
    case loaded => rfl
    all_goals decide
  · constructor <;> decide

end Sys2Proof.Tests
end

section
/-!
SUPPORT. Program load and the check of R17: what an accepted program says about its descriptors, what the
step answers for each kind of refused input, and the statement settled with them.
-/
namespace Sys2Proof.Machine

/-- An accepted program has every descriptor decoded, in order: one refused descriptor refuses it whole (R103). -/
theorem decode_of_decodeFrom_eq_ok {numArch : Nat} {prog : Memory} {n i k : Nat} {is : List Instr}
    (h : decodeFrom numArch prog i n = .ok is) (hk : k < n) :
    ∃ instr, is[k]? = some instr ∧ decode numArch (prog.readDescriptor (i + k)) = .ok instr := by
  induction n generalizing i k is with
  | zero => omega
  | succ n ih =>
    rw [decodeFrom] at h
    split at h
    next => cases h
    next instr hfirst =>
      split at h
      next => cases h
      next rest hrest =>
        cases h
        cases k with
        | zero => exact ⟨instr, rfl, hfirst⟩
        | succ k => simpa [Nat.add_assoc, Nat.add_comm 1 k] using ih hrest (Nat.lt_of_succ_lt_succ hk)

/-- `ProgRead` answers the stored descriptor exactly at the indices below N (R81). -/
theorem State.progRead_eq_some {s : State} {i : Nat} {w : Word} :
    s.progRead i = some w ↔ i < s.progLen ∧ s.prog.readDescriptor i = w := by
  simp [State.progRead]

/-- A program with a refused descriptor is refused. -/
theorem State.program_eq_error_of_refused {s : State} {i : Nat} {w : Word} {why : DecodeRefusal}
    (hread : s.progRead i = some w) (hrefused : decode s.cfg.numArch w = .error why) :
    ∃ first, s.program = .error first := by
  obtain ⟨hi, rfl⟩ := State.progRead_eq_some.mp hread
  cases hp : s.program with
  | error first => exact ⟨first, rfl⟩
  | ok is =>
    obtain ⟨instr, -, hdecode⟩ := decode_of_decodeFrom_eq_ok hp hi
    rw [Nat.zero_add, hrefused] at hdecode
    cases hdecode

/-- What the check of R17 refuses has no step. -/
theorem step_eq_refused_of_admission {s : State} {why : Refusal} (h : s.admission = some why) :
    step s = .refused why := by
  simp [step, h]

theorem State.admission_of_illegal {s : State} (h : s.cfg.legal = false) :
    s.admission = some .illegalConfig := by
  simp [State.admission, h]

theorem State.admission_of_refused_program {s : State} {why : DecodeRefusal} (hlegal : s.cfg.legal = true)
    (h : s.program = .error why) : s.admission = some (.refusedDescriptor why) := by
  simp [State.admission, hlegal, h]

/-- Settles O8: the check at the start of the step refuses either input, and a program one of whose
descriptors is refused cannot have been decoded as a whole. -/
theorem refusedInputHasNoStep : Obligations.RefusedInputHasNoStep := by
  intro s
  refine ⟨fun hillegal => step_eq_refused_of_admission (State.admission_of_illegal hillegal), ?_⟩
  intro hlegal i w why hread hrefused
  obtain ⟨first, hprogram⟩ := State.program_eq_error_of_refused hread hrefused
  exact ⟨first, step_eq_refused_of_admission (State.admission_of_refused_program hlegal hprogram)⟩

end Sys2Proof.Machine
end

section
/-!
SUPPORT. The moves of the seven stages. A stage hands an instruction to its meaning, and the meaning either
leaves the state as it is or makes one move; what the stage goes on with carries no selection. Each move is
named here, and one principle says what a property has to be kept by to be kept by a whole cycle.
-/
namespace Sys2Proof.Machine

/-! ## The moves -/

/-- A timestamp is written into a record (R41). -/
def InstrRecord.stamped (v : Int) (st : Stage) (r : InstrRecord) : InstrRecord :=
  { r with ts := r.ts.set v st }

/-- What fetch does with the instruction at the fetch pointer (R181). -/
def State.fetchMove (s : State) : State :=
  { s with fq := s.fq ++ [s.fetchPtr], fetchPtr := s.fetchPtr + 1 }.advanced .fetch s.fetchPtr

/-- What decode does with the head of FQ (R183). -/
def State.decodeMove (s : State) (j : Nat) : State :=
  { s with fq := s.fq.tail, dq := s.dq ++ [j] }.advanced .decode j

/-- What dispatch does after its destination is renamed: the ROB entry, the station and the record (R207,
R208). -/
def State.dispatchMove (s : State) (j k : Nat) (src1 src2 : Snapshot) (newTag oldTag : Option Nat) : State :=
  ({ s with
      dq := s.dq.tail
      rob := s.rob.set (s.robSlot s.robCount) ⟨j, newTag, oldTag⟩
      robCount := s.robCount + 1
      rs := s.rs.set k { busy := true, inst := some j }
      dispOut := s.dispOut ++ [j] }.updateRecord j
    (InstrRecord.dispatched src1 src2 newTag k)).advanced .dispatch j

/-- What issue does with an instruction whose sources are ready (R232). -/
def State.issueMove (s : State) (j : Nat) : State :=
  ({ s with xq := s.xq ++ [j] }.updateRecord j InstrRecord.markIssued).advanced .issue j

/-- A record leaves its station with its latency (R240, R242). -/
def InstrRecord.leftStation (lat : Int) (r : InstrRecord) : InstrRecord := { r with lat := lat, rsIdx := none }

/-- What execute does with the head of XQ, held by station `k` (R240, R241). -/
def State.executeMove (s : State) (j k : Nat) (type : Kind) : State :=
  ({ s with
      xq := s.xq.tail
      cq := s.cq ++ [j]
      rs := s.rs.set k {} }.updateRecord j (InstrRecord.leftStation (s.cfg.lat type))).advanced .execute j

/-- What complete does after its broadcast and the readiness bit (R260). -/
def State.completeMove (s : State) (j : Nat) : State :=
  ({ s with cq := s.cq.erase j, compOut := s.compOut ++ [j] }.updateRecord j
    InstrRecord.markCompleted).advanced .complete j

/-- What retire does after its commitment (R282). -/
def State.retireMove (s : State) (j : Nat) : State :=
  ({ s with
      robHead := s.robSlot 1
      robCount := s.robCount - 1
      nRetired := s.nRetired + 1
      retOut := s.retOut ++ [j] }.updateRecord j InstrRecord.markRetired).advanced .retire j

/-! ## Room in the queues -/

theorem State.fqFull_eq_false {s : State} : s.fqFull = false ↔ s.fq.length < s.cfg.capFQ := by
  rw [State.fqFull, decide_eq_false_iff_not, Nat.not_le]

theorem State.dqFull_eq_false {s : State} : s.dqFull = false ↔ s.dq.length < s.cfg.capDQ := by
  rw [State.dqFull, decide_eq_false_iff_not, Nat.not_le]

theorem State.xqFull_eq_false {s : State} : s.xqFull = false ↔ s.xq.length < s.cfg.capXQ := by
  rw [State.xqFull, decide_eq_false_iff_not, Nat.not_le]

theorem State.cqFull_eq_false {s : State} : s.cqFull = false ↔ s.cq.length < s.cfg.capCQ := by
  rw [State.cqFull, decide_eq_false_iff_not, Nat.not_le]

/-! ## Each meaning stalls or makes its move -/

section Meanings

variable {s u : State} {j : Nat}

theorem presentFetched_cases (h : presentFetched s = .next u) :
    u = s.select .fetch s.fetchPtr ∨ (s.fq.length < s.cfg.capFQ ∧ u = s.fetchMove) := by
  obtain ⟨w, i, -, -, hx⟩ := presentFetched_eq_next.mp h
  rw [exec_fetch i rfl] at hx
  obtain ⟨-, rfl⟩ | ⟨hroom, rfl⟩ := fetchStage_next hx
  · exact .inl rfl
  · exact .inr ⟨State.fqFull_eq_false.mp hroom, rfl⟩

theorem present_decode_cases (h : present .decode j s = .next u) :
    u = s.select .decode j ∨ (s.dq.length < s.cfg.capDQ ∧ u = s.decodeMove j) := by
  obtain ⟨r, -, hx⟩ := present_eq_next.mp h
  rw [exec_decode r.instr rfl] at hx
  obtain ⟨-, rfl⟩ | ⟨hroom, rfl⟩ := decodeStage_next hx
  · exact .inl rfl
  · exact .inr ⟨State.dqFull_eq_false.mp hroom, rfl⟩

/-- Renaming of a destination does not look at the selection. -/
theorem renameDestination_select {st : Stage} {d : Operand} {n : Renaming}
    (h : (s.select st j).renameDestination d = .ok n) :
    ∃ v, s.renameDestination d = .ok ⟨v, n.newTag, n.oldTag⟩ ∧ n.state = v.select st j := by
  obtain ⟨rfl, rfl⟩ | ⟨a, t, rest, old, rfl, hfree, hmap, ht, rfl⟩ := State.renameDestination_eq_ok.mp h
  · exact ⟨s, rfl, rfl⟩
  · exact ⟨_, State.renameDestination_eq_ok.mpr (.inr ⟨a, t, rest, old, rfl, hfree, hmap, ht, rfl⟩), rfl⟩

theorem present_dispatch_cases (h : present .dispatch j s = .next u) :
    u = s.select .dispatch j
      ∨ ∃ r k src1 src2 n, s.recs[j]? = some r
          ∧ s.dispatchStation r.instr.kind r.instr.dst = some k
          ∧ s.renameSource r.instr.src1 = .ok src1 ∧ s.renameSource r.instr.src2 = .ok src2
          ∧ s.renameDestination r.instr.dst = .ok n
          ∧ u = n.state.dispatchMove j k src1 src2 n.newTag n.oldTag := by
  obtain ⟨r, hr, hx⟩ := present_eq_next.mp h
  rw [exec_dispatch r.instr rfl] at hx
  obtain ⟨-, rfl⟩ | ⟨k, src1, src2, n, v, hk, h1, h2, hn, hv, rfl⟩ := dispatchStage_next hx
  · exact .inl rfl
  · obtain ⟨w, hw, hstate⟩ := renameDestination_select hn
    obtain ⟨-, rfl⟩ := State.allocate_eq_ok.mp hv
    exact .inr ⟨r, k, src1, src2, _, hr, hk, h1, h2, hw, by rw [hstate]; rfl⟩

theorem present_issue_cases (h : present .issue j s = .next u) :
    u = s.select .issue j
      ∨ ∃ r, s.recs[j]? = some r ∧ s.xq.length < s.cfg.capXQ
          ∧ readyToExecute r.instr.src1 r.instr.src2 r = true ∧ r.issued = false
          ∧ u = s.issueMove j := by
  obtain ⟨r, hr, hx⟩ := present_eq_next.mp h
  rw [exec_issue r.instr rfl] at hx
  obtain ⟨r', hr', ⟨-, rfl⟩ | ⟨hroom, hready, hissued, rfl⟩⟩ := issueStage_next hx
  · exact .inl rfl
  · obtain rfl : r = r' := Option.some.inj (hr.symm.trans hr')
    exact .inr ⟨r, hr, State.xqFull_eq_false.mp hroom, hready, hissued, rfl⟩

theorem present_execute_cases (h : present .execute j s = .next u) :
    u = s.select .execute j
      ∨ ∃ r k type, s.recs[j]? = some r ∧ s.cq.length < s.cfg.capCQ ∧ r.rsIdx = some k
          ∧ s.stationType k = some type ∧ u = s.executeMove j k type := by
  obtain ⟨r, -, hx⟩ := present_eq_next.mp h
  rw [exec_execute r.instr rfl] at hx
  obtain ⟨-, rfl⟩ | ⟨r, k, type, hroom, hr, hk, htype, rfl⟩ := executeStage_next hx
  · exact .inl rfl
  · exact .inr ⟨r, k, type, hr, State.cqFull_eq_false.mp hroom, hk, htype, rfl⟩

/-- Setting a readiness bit after a broadcast does not look at the selection. -/
theorem markReady_broadcast_select {st : Stage} {p : Option Nat} {v : State}
    (h : ((s.select st j).broadcast p).markReady p = .ok v) :
    ∃ w, (s.broadcast p).markReady p = .ok w ∧ v = w.select st j := by
  obtain ⟨rfl, rfl⟩ | ⟨t, rfl, ht, rfl⟩ := State.markReady_eq_ok.mp h
  · exact ⟨s, rfl, rfl⟩
  · exact ⟨_, State.markReady_eq_ok.mpr (.inr ⟨t, rfl, by simpa using ht, rfl⟩), rfl⟩

theorem present_complete_cases (h : present .complete j s = .next u) :
    u = s.select .complete j
      ∨ ∃ r v, s.recs[j]? = some r ∧ r.ts.execute + r.lat ≤ s.cycle
          ∧ (s.broadcast r.pd).markReady r.pd = .ok v ∧ u = v.completeMove j := by
  obtain ⟨r, -, hx⟩ := present_eq_next.mp h
  rw [exec_complete r.instr rfl] at hx
  obtain ⟨r, hr, ⟨-, rfl⟩ | ⟨v, hdue, hv, rfl⟩⟩ := completeStage_next hx
  · exact .inl rfl
  · obtain ⟨w, hw, rfl⟩ := markReady_broadcast_select hv
    exact .inr ⟨r, w, hr, hdue, hw, rfl⟩

/-- A commitment does not look at the selection. -/
theorem commit_select {st : Stage} {d : Operand} {e : RobEntry} {v : State}
    (h : (s.select st j).commit d e = .ok v) : ∃ w, s.commit d e = .ok w ∧ v = w.select st j := by
  obtain ⟨rfl, rfl⟩ | ⟨a, p, old, rfl, hp, hold, ha, rfl⟩ := State.commit_eq_ok.mp h
  · exact ⟨s, rfl, rfl⟩
  · exact ⟨_, State.commit_eq_ok.mpr (.inr ⟨a, p, old, rfl, hp, hold, ha, rfl⟩), rfl⟩

theorem present_retire_cases {e : RobEntry} (he : s.rob[s.robHead]? = some e)
    (h : present .retire j s = .next u) :
    u = s.select .retire j
      ∨ ∃ r v, s.recs[j]? = some r ∧ r.completed = true ∧ s.commit r.instr.dst e = .ok v
          ∧ u = v.retireMove j := by
  obtain ⟨r, hr, hx⟩ := present_eq_next.mp h
  rw [exec_retire r.instr rfl] at hx
  obtain ⟨-, rfl⟩ | ⟨e', r', -, he', hr', ⟨-, rfl⟩ | ⟨v, hdone, hv, rfl⟩⟩ := retireStage_next hx
  · exact .inl rfl
  · exact .inl rfl
  · obtain rfl : r = r' := Option.some.inj (hr.symm.trans hr')
    obtain rfl : e = e' := Option.some.inj (he.symm.trans he')
    obtain ⟨w, hw, rfl⟩ := commit_select hv
    exact .inr ⟨r, w, hr, hdone, hw, rfl⟩

end Meanings

/-! ## Properties that the moves keep -/

/-- Ending a selection and the moves of the stages after `complete` keep `P`. -/
structure KeptAfterComplete (P : State → Prop) : Prop where
  deselect : ∀ s, P s → P s.deselect
  execute : ∀ s j rest r k type, P s → s.xq = j :: rest → s.recs[j]? = some r → s.cq.length < s.cfg.capCQ →
    r.rsIdx = some k → s.stationType k = some type → P (s.executeMove j k type)
  issue : ∀ s (k : Nat) (st : Station) j r, P s → s.rs[k]? = some st → st.held = some j →
    s.recs[j]? = some r → s.xq.length < s.cfg.capXQ → readyToExecute r.instr.src1 r.instr.src2 r = true →
    r.issued = false → P (s.issueMove j)
  dispatch : ∀ s j rest r k src1 src2 n, P s → s.dq = j :: rest → s.recs[j]? = some r →
    s.dispatchStation r.instr.kind r.instr.dst = some k → s.renameSource r.instr.src1 = .ok src1 →
    s.renameSource r.instr.src2 = .ok src2 → s.renameDestination r.instr.dst = .ok n →
    P (n.state.dispatchMove j k src1 src2 n.newTag n.oldTag)
  decode : ∀ s j rest, P s → s.fq = j :: rest → s.dq.length < s.cfg.capDQ → P (s.decodeMove j)
  fetch : ∀ s, P s → s.fetchPtr < s.progLen → s.fq.length < s.cfg.capFQ → P s.fetchMove

/-- The moves of `complete` keep `P`, with instructions that are in CQ. -/
def KeptByComplete (P : State → Prop) : Prop :=
  ∀ s j r v, P s → j ∈ s.cq → s.recs[j]? = some r → r.ts.execute + r.lat ≤ s.cycle →
    (s.broadcast r.pd).markReady r.pd = .ok v → P (v.completeMove j)

/-- The moves of `complete` keep `P`, whatever instruction completes. -/
def KeptByAnyComplete (P : State → Prop) : Prop :=
  ∀ s j r v, P s → s.recs[j]? = some r → (s.broadcast r.pd).markReady r.pd = .ok v → P (v.completeMove j)

/-- The moves of `retire` keep `P`. -/
def KeptByRetire (P : State → Prop) : Prop :=
  ∀ s e r v, P s → s.robCount ≠ 0 → s.rob[s.robHead]? = some e → s.recs[e.inst]? = some r →
    r.completed = true → s.commit r.instr.dst e = .ok v → P (v.retireMove e.inst)

section Principles

variable {P : State → Prop}

theorem KeptByRetire.retireLoop (h : KeptByRetire P) (hdeselect : ∀ s, P s → P s.deselect) {n : Nat} {s t : State}
    (hs : P s) (ht : retireLoop n s = .next t) : P t := by
  refine retireLoop_preserves (fun s e u hs hcount he hu => ?_) n s t hs ht
  obtain hstall | ⟨r, v, hr, hdone, hv, hmove⟩ := present_retire_cases he hu
  · rw [hstall]
    exact hdeselect s hs
  · rw [hmove]
    exact h s e r v hs hcount he hr hdone hv

theorem KeptByComplete.completeScan (h : KeptByComplete P) (hdeselect : ∀ s, P s → P s.deselect)
    {js : List Nat} {s t : State} (hnodup : js.Nodup) (hmem : ∀ j ∈ js, j ∈ s.cq) (hs : P s)
    (ht : completeScan js s = .next t) : P t := by
  refine completeScan_preserves_of_mem (fun s j u hs hj hu => ?_) js s t hnodup hmem hs ht
  obtain hstall | ⟨r, v, hr, hdue, hv, hmove⟩ := present_complete_cases hu
  · rw [hstall]
    exact hdeselect s hs
  · rw [hmove]
    exact h s j r v hs hj hr hdue hv

/-- What the stages after `complete` and the end of the cycle leave. -/
theorem KeptAfterComplete.rest (h : KeptAfterComplete P) {s2 s3 s4 s5 s6 t : State} (hs : P s2)
    (h3 : executeLoop s2.cfg.width s2 = .next s3) (h4 : issueScan s3.scanOrder s3.cfg.width s3 = .next s4)
    (h5 : dispatchLoop s4.cfg.width s4 = .next s5) (h6 : decodeLoop s5.cfg.width s5 = .next s6)
    (h7 : fetchLoop s6.cfg.width s6 = .next t) : P t := by
  have p3 : P s3 := by
    refine executeLoop_preserves (fun s j rest u hs hxq hu => ?_) _ _ _ hs h3
    obtain hstall | ⟨r, k, type, hr, hroom, hk, htype, hmove⟩ := present_execute_cases hu
    · rw [hstall]
      exact h.deselect s hs
    · rw [hmove]
      exact h.execute s j rest r k type hs hxq hr hroom hk htype
  have p4 : P s4 := by
    refine issueScan_preserves (fun s k st j u hs hst hheld hu => ?_) _ _ _ _ p3 h4
    obtain hstall | ⟨r, hr, hroom, hready, hissued, hmove⟩ := present_issue_cases hu
    · rw [hstall]
      exact h.deselect s hs
    · rw [hmove]
      exact h.issue s k st j r hs hst hheld hr hroom hready hissued
  have p5 : P s5 := by
    refine dispatchLoop_preserves (fun s j rest u hs hdq hu => ?_) _ _ _ p4 h5
    obtain hstall | ⟨r, k, src1, src2, n, hr, hk, h1, h2, hn, hmove⟩ :=
      present_dispatch_cases hu
    · rw [hstall]
      exact h.deselect s hs
    · rw [hmove]
      exact h.dispatch s j rest r k src1 src2 n hs hdq hr hk h1 h2 hn
  have p6 : P s6 := by
    refine decodeLoop_preserves (fun s j rest u hs hfq hu => ?_) _ _ _ p5 h6
    obtain hstall | ⟨hroom, hmove⟩ := present_decode_cases hu
    · rw [hstall]
      exact h.deselect s hs
    · rw [hmove]
      exact h.decode s j rest hs hfq hroom
  refine fetchLoop_preserves (fun s u hs hlt hu => ?_) _ _ _ p6 h7
  obtain hstall | ⟨hroom, hmove⟩ := presentFetched_cases hu
  · rw [hstall]
    exact h.deselect s hs
  · rw [hmove]
    exact h.fetch s hs hlt hroom

end Principles

/-- The cycle, taken apart into its seven stages and its end (R130, R131). -/
theorem cycleStep_stages {s t : State} (h : cycleStep s = .next t) :
    ∃ s1 s2 s3 s4 s5 s6 s7, retireLoop s.cfg.width (cycleStart s) = .next s1
      ∧ completeScan s1.candidates s1 = .next s2
      ∧ executeLoop s2.cfg.width s2 = .next s3
      ∧ issueScan s3.scanOrder s3.cfg.width s3 = .next s4
      ∧ dispatchLoop s4.cfg.width s4 = .next s5
      ∧ decodeLoop s5.cfg.width s5 = .next s6
      ∧ fetchLoop s6.cfg.width s6 = .next s7 ∧ t = cycleEnd s7 := by
  obtain ⟨s6, s7, hu, h7, rfl⟩ := cycleStep_eq_next.mp h
  obtain ⟨s1, s2, s3, s4, s5, h1, h2, h3, h4, h5, h6⟩ := stagesBeforeFetch_eq_next.mp hu
  exact ⟨s1, s2, s3, s4, s5, s6, s7, h1, h2, h3, h4, h5, h6, h7, rfl⟩

/-- What the start of a cycle establishes and every move keeps holds at the end of the cycle. -/
theorem cycle_keeps_of_nodup {P : State → Prop} (hretire : KeptByRetire P) (hcomplete : KeptByComplete P)
    (hrest : KeptAfterComplete P) (hnodup : ∀ s, P s → s.cq.Nodup) {s t : State} (hs : P (cycleStart s))
    (h : cycleStep s = .next t) : ∃ u, P u ∧ t = cycleEnd u := by
  obtain ⟨s1, s2, s3, s4, s5, s6, s7, h1, h2, h3, h4, h5, h6, h7, rfl⟩ := cycleStep_stages h
  have p1 := hretire.retireLoop hrest.deselect hs h1
  have p2 := hcomplete.completeScan hrest.deselect ((hnodup s1 p1).sublist (List.take_sublist _ _))
    (fun j hj => List.mem_of_mem_take hj) p1 h2
  exact ⟨s7, hrest.rest p2 h3 h4 h5 h6 h7, rfl⟩

/-- What the stages after `retire` keep, where `complete` keeps `P` whatever instruction it completes. -/
theorem keeps_after_retire {P : State → Prop} (hcomplete : KeptByAnyComplete P) (hrest : KeptAfterComplete P)
    {s1 s2 s3 s4 s5 s6 t : State} (hs : P s1) (h2 : completeScan s1.candidates s1 = .next s2)
    (h3 : executeLoop s2.cfg.width s2 = .next s3) (h4 : issueScan s3.scanOrder s3.cfg.width s3 = .next s4)
    (h5 : dispatchLoop s4.cfg.width s4 = .next s5) (h6 : decodeLoop s5.cfg.width s5 = .next s6)
    (h7 : fetchLoop s6.cfg.width s6 = .next t) : P t := by
  refine hrest.rest (completeScan_preserves (fun s j u hs hu => ?_) _ _ _ hs h2) h3 h4 h5 h6 h7
  obtain hstall | ⟨r, v, hr, -, hv, hmove⟩ := present_complete_cases hu
  · rw [hstall]
    exact hrest.deselect s hs
  · rw [hmove]
    exact hcomplete s j r v hs hr hv

/-- What the start of a cycle establishes and every move keeps, where `complete` keeps it whatever instruction it
completes. -/
theorem cycle_keeps {P : State → Prop} (hretire : KeptByRetire P) (hcomplete : KeptByAnyComplete P)
    (hrest : KeptAfterComplete P) {s t : State} (hs : P (cycleStart s)) (h : cycleStep s = .next t) :
    ∃ u, P u ∧ t = cycleEnd u := by
  obtain ⟨s1, s2, s3, s4, s5, s6, s7, h1, h2, h3, h4, h5, h6, h7, rfl⟩ := cycleStep_stages h
  exact ⟨s7, keeps_after_retire hcomplete hrest (hretire.retireLoop hrest.deselect hs h1) h2 h3 h4 h5 h6 h7, rfl⟩

end Sys2Proof.Machine
end

section
/-!
SUPPORT. The records of the instructions: what every move leaves of each record, and what the flags, the
back-reference and the timestamps of one record say of each other (R40 to R42).
-/
namespace Sys2Proof.Machine

/-! ## The record of an instruction after a change -/

section Records

variable {s t : State} {j m : Nat} {f : InstrRecord → InstrRecord}

theorem State.record_eq_of_getElem? {r : InstrRecord} (h : s.recs[j]? = some r) : s.record j = r := by
  simp [State.record, List.getD_eq_getElem?_getD, h]

theorem State.getElem?_recs (h : j < s.recs.length) : s.recs[j]? = some (s.record j) := by
  simp [State.record, List.getD_eq_getElem?_getD, h]

theorem State.record_self_of_modify (h : t.recs = s.recs.modify j f) (hj : j < s.recs.length) :
    t.record j = f (s.record j) := by
  refine State.record_eq_of_getElem? ?_
  rw [h, List.getElem?_modify_eq, State.getElem?_recs hj]
  rfl

theorem State.record_other_of_modify (h : t.recs = s.recs.modify j f) (hm : m ≠ j) : t.record m = s.record m := by
  simp [State.record, List.getD_eq_getElem?_getD, h, List.getElem?_modify_ne _ _ (Ne.symm hm)]

/-- What a change of one record keeps of it, it keeps of every record. -/
theorem State.record_field_of_modify {α : Type} (field : InstrRecord → α) (h : t.recs = s.recs.modify j f)
    (hf : ∀ r, field (f r) = field r) (m : Nat) : field (t.record m) = field (s.record m) := by
  by_cases hm : m = j
  · subst hm
    cases hr : s.recs[m]? <;> simp [State.record, List.getD_eq_getElem?_getD, h, hr, hf]
  · rw [State.record_other_of_modify h hm]

/-- A change of one record that keeps its static fields keeps those of all records. -/
theorem map_instr_modify (recs : List InstrRecord) (hf : ∀ r, (f r).instr = r.instr) :
    (recs.modify j f).map InstrRecord.instr = recs.map InstrRecord.instr := by
  apply List.ext_getElem?
  intro i
  by_cases h : j = i
  · subst h
    simp [Option.map_map, Function.comp_def, hf]
  · simp [List.getElem?_modify_ne _ _ h]

end Records

/-! ## The records a move leaves -/

section MoveRecords

variable (s : State) (j k : Nat) (src1 src2 : Snapshot) (newTag oldTag : Option Nat) (type : Kind)

@[simp] theorem State.fetchMove_recs :
    s.fetchMove.recs = s.recs.modify s.fetchPtr (InstrRecord.stamped s.cycle .fetch) := rfl

@[simp] theorem State.decodeMove_recs :
    (s.decodeMove j).recs = s.recs.modify j (InstrRecord.stamped s.cycle .decode) := rfl

@[simp] theorem State.dispatchMove_recs :
    (s.dispatchMove j k src1 src2 newTag oldTag).recs
      = s.recs.modify j fun r => (r.dispatched src1 src2 newTag k).stamped s.cycle .dispatch :=
  List.modify_modify_eq ..

@[simp] theorem State.issueMove_recs :
    (s.issueMove j).recs = s.recs.modify j fun r => r.markIssued.stamped s.cycle .issue :=
  List.modify_modify_eq ..

@[simp] theorem State.executeMove_recs :
    (s.executeMove j k type).recs
      = s.recs.modify j fun r => (r.leftStation (s.cfg.lat type)).stamped s.cycle .execute :=
  List.modify_modify_eq ..

@[simp] theorem State.completeMove_recs :
    (s.completeMove j).recs = s.recs.modify j fun r => r.markCompleted.stamped s.cycle .complete :=
  List.modify_modify_eq ..

@[simp] theorem State.retireMove_recs :
    (s.retireMove j).recs = s.recs.modify j fun r => r.markRetired.stamped s.cycle .retire :=
  List.modify_modify_eq ..

end MoveRecords

/-! ## The broadcast -/

/-- Waking twice is waking once. -/
theorem InstrRecord.wake_wake (t : Nat) (r : InstrRecord) : (r.wake t).wake t = r.wake t := by
  unfold InstrRecord.wake
  simp only [Bool.or_assoc, Bool.or_self]

/-- What a broadcast does to each record: it wakes those of the given instructions (R262). -/
theorem getElem?_wakeAll (t : Nat) (js : List Nat) (recs : List InstrRecord) (m : Nat) :
    (wakeAll t js recs)[m]? = recs[m]?.map fun r => if m ∈ js then r.wake t else r := by
  induction js generalizing recs with
  | nil => simp [wakeAll]
  | cons j js ih =>
    rw [wakeAll, ih]
    by_cases hj : j = m
    · subst hj
      rw [List.getElem?_modify_eq, Option.map_eq_map, Option.map_map]
      by_cases hjs : j ∈ js <;> simp [hjs, Function.comp_def, InstrRecord.wake_wake]
    · simp [List.getElem?_modify_ne _ _ hj, Ne.symm hj]

/-- The state between the broadcast of tag `p` with its readiness bit and the rest of the completion (R262,
R263). -/
def State.signalled (s : State) (p : Nat) : State :=
  { s with recs := wakeAll p s.heldInstrs s.recs, specReady := s.specReady.set p true }

/-- A completion broadcasts nothing, or signals the tag of its destination (R263, R264). -/
theorem markReady_broadcast_eq_ok {s v : State} {o : Option Nat} :
    (s.broadcast o).markReady o = .ok v ↔
      (o = none ∧ v = s) ∨ ∃ p, o = some p ∧ p < s.specReady.length ∧ v = s.signalled p := by
  rw [State.markReady_eq_ok]
  constructor
  · rintro (⟨rfl, rfl⟩ | ⟨p, rfl, hp, rfl⟩)
    · exact .inl ⟨rfl, rfl⟩
    · exact .inr ⟨p, rfl, by simpa using hp, rfl⟩
  · rintro (⟨rfl, rfl⟩ | ⟨p, rfl, hp, rfl⟩)
    · exact .inl ⟨rfl, rfl⟩
    · exact .inr ⟨p, rfl, by simpa using hp, rfl⟩

theorem State.signalled_record (s : State) (p : Nat) {m : Nat} (hm : m < s.recs.length) :
    (s.signalled p).record m = if m ∈ s.heldInstrs then (s.record m).wake p else s.record m := by
  refine State.record_eq_of_getElem? ?_
  rw [State.signalled, getElem?_wakeAll, State.getElem?_recs hm]
  rfl

/-- What waking keeps of a record, a broadcast keeps of every record. -/
theorem State.signalled_field {α : Type} (field : InstrRecord → α) (s : State) (p : Nat)
    (hf : ∀ r, field (r.wake p) = field r) (m : Nat) :
    field ((s.signalled p).record m) = field (s.record m) := by
  rw [State.record, State.record, State.signalled, List.getD_eq_getElem?_getD, List.getD_eq_getElem?_getD,
    getElem?_wakeAll]
  cases s.recs[m]? with
  | none => rfl
  | some r => by_cases hm : m ∈ s.heldInstrs <;> simp [hm, hf]

/-- Waking records keeps their static fields. -/
theorem map_instr_wakeAll (t : Nat) (js : List Nat) (recs : List InstrRecord) :
    (wakeAll t js recs).map InstrRecord.instr = recs.map InstrRecord.instr := by
  induction js generalizing recs with
  | nil => rfl
  | cons j js ih => rw [wakeAll, ih, map_instr_modify recs (fun r => InstrRecord.wake_instr r t)]

theorem State.mem_heldInstrs {s : State} {j : Nat} :
    j ∈ s.heldInstrs ↔ ∃ st ∈ s.rs, st.busy = true ∧ st.inst = some j := by
  simp [State.heldInstrs, Station.held]

/-! ## One record -/

theorem natCast_ne_unset (n : Nat) : (n : Int) ≠ unset := by
  unfold unset
  omega

/-- The flags, the back-reference, the latency and the timestamps of one record agree (R40 to R42). -/
structure InstrRecord.Coherent (c : Config) (r : InstrRecord) : Prop where
  retired_completed : r.retired = true → r.completed = true
  completed_executed : r.completed = true → r.executed = true
  executed_issued : r.executed = true → r.issued = true
  issued_renamed : r.issued = true → r.renamed = true
  rsIdx_iff : r.rsIdx.isSome = (r.renamed && !r.executed)
  untouched : r.renamed = false → r.undispatched
  dispatch_set : r.ts.dispatch ≠ unset ↔ r.renamed = true
  issue_set : r.ts.issue ≠ unset ↔ r.issued = true
  complete_set : r.ts.complete ≠ unset ↔ r.completed = true
  retire_set : r.ts.retire ≠ unset ↔ r.retired = true
  lat_eq : r.executed = true → r.lat = c.lat r.instr.kind

namespace InstrRecord

@[simp] theorem stamped_instr (r : InstrRecord) (v : Int) (st : Stage) : (r.stamped v st).instr = r.instr := rfl
@[simp] theorem stamped_ps1 (r : InstrRecord) (v : Int) (st : Stage) : (r.stamped v st).ps1 = r.ps1 := rfl
@[simp] theorem stamped_ps2 (r : InstrRecord) (v : Int) (st : Stage) : (r.stamped v st).ps2 = r.ps2 := rfl
@[simp] theorem stamped_rdy1 (r : InstrRecord) (v : Int) (st : Stage) : (r.stamped v st).rdy1 = r.rdy1 := rfl
@[simp] theorem stamped_rdy2 (r : InstrRecord) (v : Int) (st : Stage) : (r.stamped v st).rdy2 = r.rdy2 := rfl
@[simp] theorem stamped_pd (r : InstrRecord) (v : Int) (st : Stage) : (r.stamped v st).pd = r.pd := rfl
@[simp] theorem stamped_renamed (r : InstrRecord) (v : Int) (st : Stage) :
    (r.stamped v st).renamed = r.renamed := rfl
@[simp] theorem stamped_issued (r : InstrRecord) (v : Int) (st : Stage) :
    (r.stamped v st).issued = r.issued := rfl
@[simp] theorem stamped_completed (r : InstrRecord) (v : Int) (st : Stage) :
    (r.stamped v st).completed = r.completed := rfl
@[simp] theorem stamped_retired (r : InstrRecord) (v : Int) (st : Stage) :
    (r.stamped v st).retired = r.retired := rfl
@[simp] theorem stamped_lat (r : InstrRecord) (v : Int) (st : Stage) : (r.stamped v st).lat = r.lat := rfl
@[simp] theorem stamped_rsIdx (r : InstrRecord) (v : Int) (st : Stage) : (r.stamped v st).rsIdx = r.rsIdx := rfl
@[simp] theorem stamped_ts (r : InstrRecord) (v : Int) (st : Stage) : (r.stamped v st).ts = r.ts.set v st := rfl

@[simp] theorem leftStation_instr (r : InstrRecord) (l : Int) : (r.leftStation l).instr = r.instr := rfl
@[simp] theorem leftStation_ps1 (r : InstrRecord) (l : Int) : (r.leftStation l).ps1 = r.ps1 := rfl
@[simp] theorem leftStation_ps2 (r : InstrRecord) (l : Int) : (r.leftStation l).ps2 = r.ps2 := rfl
@[simp] theorem leftStation_rdy1 (r : InstrRecord) (l : Int) : (r.leftStation l).rdy1 = r.rdy1 := rfl
@[simp] theorem leftStation_rdy2 (r : InstrRecord) (l : Int) : (r.leftStation l).rdy2 = r.rdy2 := rfl
@[simp] theorem leftStation_pd (r : InstrRecord) (l : Int) : (r.leftStation l).pd = r.pd := rfl
@[simp] theorem leftStation_renamed (r : InstrRecord) (l : Int) : (r.leftStation l).renamed = r.renamed := rfl
@[simp] theorem leftStation_issued (r : InstrRecord) (l : Int) : (r.leftStation l).issued = r.issued := rfl
@[simp] theorem leftStation_completed (r : InstrRecord) (l : Int) :
    (r.leftStation l).completed = r.completed := rfl
@[simp] theorem leftStation_retired (r : InstrRecord) (l : Int) : (r.leftStation l).retired = r.retired := rfl
@[simp] theorem leftStation_lat (r : InstrRecord) (l : Int) : (r.leftStation l).lat = l := rfl
@[simp] theorem leftStation_rsIdx (r : InstrRecord) (l : Int) : (r.leftStation l).rsIdx = none := rfl
@[simp] theorem leftStation_ts (r : InstrRecord) (l : Int) : (r.leftStation l).ts = r.ts := rfl

theorem executed_stamped_execute (r : InstrRecord) (n : Nat) : (r.stamped n .execute).executed = true :=
  decide_eq_true (natCast_ne_unset n)

namespace Coherent

variable {c : Config} {r : InstrRecord}

/-- A record as load makes it is coherent (R330). -/
theorem fresh (c : Config) (i : Instr) : (InstrRecord.fresh i).Coherent c := by
  constructor <;> simp [InstrRecord.fresh, InstrRecord.executed]

theorem fetched (h : r.Coherent c) (v : Int) : (r.stamped v .fetch).Coherent c where
  retired_completed := h.retired_completed
  completed_executed := h.completed_executed
  executed_issued := h.executed_issued
  issued_renamed := h.issued_renamed
  rsIdx_iff := h.rsIdx_iff
  untouched hr := by
    have hu := h.untouched hr
    rw [InstrRecord.undispatched, hu]
    rfl
  dispatch_set := h.dispatch_set
  issue_set := h.issue_set
  complete_set := h.complete_set
  retire_set := h.retire_set
  lat_eq := h.lat_eq

theorem decoded (h : r.Coherent c) (v : Int) : (r.stamped v .decode).Coherent c where
  retired_completed := h.retired_completed
  completed_executed := h.completed_executed
  executed_issued := h.executed_issued
  issued_renamed := h.issued_renamed
  rsIdx_iff := h.rsIdx_iff
  untouched hr := by
    have hu := h.untouched hr
    rw [InstrRecord.undispatched, hu]
    rfl
  dispatch_set := h.dispatch_set
  issue_set := h.issue_set
  complete_set := h.complete_set
  retire_set := h.retire_set
  lat_eq := h.lat_eq

/-- A record that has not been dispatched has passed none of the later stages. -/
theorem of_not_renamed (h : r.Coherent c) (hr : r.renamed = false) :
    r.issued = false ∧ r.executed = false ∧ r.completed = false ∧ r.retired = false := by
  rw [h.untouched hr]
  exact ⟨rfl, rfl, rfl, rfl⟩

theorem dispatched (h : r.Coherent c) (hr : r.renamed = false) (src1 src2 : Snapshot) (pd : Option Nat)
    (k n : Nat) : ((r.dispatched src1 src2 pd k).stamped n .dispatch).Coherent c := by
  obtain ⟨hissued, hexecuted, hcompleted, hretired⟩ := h.of_not_renamed hr
  have hexecuted' : ((r.dispatched src1 src2 pd k).stamped n .dispatch).executed = false := hexecuted
  constructor
  case dispatch_set => simp [Timestamps.set, natCast_ne_unset]
  case issue_set => simpa [Timestamps.set] using h.issue_set
  case complete_set => simpa [Timestamps.set] using h.complete_set
  case retire_set => simpa [Timestamps.set] using h.retire_set
  all_goals simp [hissued, hexecuted', hcompleted, hretired]

theorem issued (h : r.Coherent c) (hr : r.renamed = true) (hexecuted : r.executed = false) (n : Nat) :
    (r.markIssued.stamped n .issue).Coherent c := by
  have hexecuted' : (r.markIssued.stamped n .issue).executed = r.executed := rfl
  constructor
  case completed_executed => exact h.completed_executed
  case retired_completed => exact h.retired_completed
  case rsIdx_iff => exact h.rsIdx_iff
  case dispatch_set => exact h.dispatch_set
  case issue_set => simp [Timestamps.set, natCast_ne_unset]
  case complete_set => exact h.complete_set
  case retire_set => exact h.retire_set
  all_goals simp [hr, hexecuted, hexecuted']

theorem executed (h : r.Coherent c) (hissued : r.issued = true) (n : Nat) :
    ((r.leftStation (c.lat r.instr.kind)).stamped n .execute).Coherent c := by
  have hr := h.issued_renamed hissued
  constructor
  case retired_completed => exact h.retired_completed
  case dispatch_set => exact h.dispatch_set
  case issue_set => exact h.issue_set
  case complete_set => exact h.complete_set
  case retire_set => exact h.retire_set
  all_goals simp [hr, hissued, executed_stamped_execute]

theorem completed (h : r.Coherent c) (hexecuted : r.executed = true) (n : Nat) :
    (r.markCompleted.stamped n .complete).Coherent c := by
  have hissued := h.executed_issued hexecuted
  have hr := h.issued_renamed hissued
  have hexecuted' : (r.markCompleted.stamped n .complete).executed = true := hexecuted
  constructor
  case rsIdx_iff => exact h.rsIdx_iff
  case dispatch_set => exact h.dispatch_set
  case issue_set => exact h.issue_set
  case complete_set => simp [Timestamps.set, natCast_ne_unset]
  case retire_set => exact h.retire_set
  case lat_eq => exact h.lat_eq
  all_goals simp [hr, hissued, hexecuted']

theorem retired (h : r.Coherent c) (hcompleted : r.completed = true) (n : Nat) :
    (r.markRetired.stamped n .retire).Coherent c := by
  have hr := h.issued_renamed (h.executed_issued (h.completed_executed hcompleted))
  constructor
  case retired_completed => simp [hcompleted]
  case completed_executed => exact h.completed_executed
  case executed_issued => exact h.executed_issued
  case issued_renamed => exact h.issued_renamed
  case rsIdx_iff => exact h.rsIdx_iff
  case untouched => simp [hr]
  case dispatch_set => exact h.dispatch_set
  case issue_set => exact h.issue_set
  case complete_set => exact h.complete_set
  case retire_set => simp [Timestamps.set, natCast_ne_unset]
  case lat_eq => exact h.lat_eq

theorem woken (h : r.Coherent c) (hr : r.renamed = true) (p : Nat) : (r.wake p).Coherent c where
  retired_completed := h.retired_completed
  completed_executed := h.completed_executed
  executed_issued := h.executed_issued
  issued_renamed := h.issued_renamed
  rsIdx_iff := h.rsIdx_iff
  untouched hnot := absurd (hr.symm.trans hnot) (by decide)
  dispatch_set := h.dispatch_set
  issue_set := h.issue_set
  complete_set := h.complete_set
  retire_set := h.retire_set
  lat_eq := h.lat_eq

end Coherent

end InstrRecord

end Sys2Proof.Machine
end

section
/-!
SUPPORT. The reorder buffer as a list, the shape and the places of the state in parts, and what each move
leaves of each part (R40 to R45, R86, R285).
-/
namespace Sys2Proof.Machine

/-! ## The occupied ROB entries -/

/-- The entry at the head is the first occupied one. -/
theorem State.robEntries_getElem?_zero {s : State} {e : RobEntry} (hhead : s.robHead < s.cfg.robSize)
    (hcount : s.robCount ≠ 0) (he : s.rob[s.robHead]? = some e) : s.robEntries[0]? = some e := by
  have hpos : 0 < s.robCount := Nat.pos_of_ne_zero hcount
  simp [State.robEntries, State.robSlot, Nat.mod_eq_of_lt hhead, List.getD_eq_getElem?_getD, he, hpos]

theorem State.robSlot_succ_of_retireMove (s : State) (j q : Nat) :
    (s.retireMove j).robSlot q = s.robSlot (q + 1) := by
  show ((s.robHead + 1) % s.cfg.robSize + q) % s.cfg.robSize = (s.robHead + (q + 1)) % s.cfg.robSize
  rw [Nat.mod_add_mod]
  congr 1
  omega

/-- Retirement takes the head entry. -/
theorem State.robEntries_eq_cons_retireMove {s : State} {e : RobEntry} (j : Nat)
    (hhead : s.robHead < s.cfg.robSize) (hcount : s.robCount ≠ 0) (he : s.rob[s.robHead]? = some e) :
    s.robEntries = e :: (s.retireMove j).robEntries := by
  obtain ⟨n, hn⟩ := Nat.exists_eq_succ_of_ne_zero hcount
  have hfirst : s.rob.getD (s.robSlot 0) RobEntry.initial = e := by
    simp [State.robSlot, Nat.mod_eq_of_lt hhead, List.getD_eq_getElem?_getD, he]
  have hrest : (s.retireMove j).robCount = n := by
    show s.robCount - 1 = n
    omega
  unfold State.robEntries
  rw [hn, hrest, List.range_succ_eq_map, List.map_cons, List.map_map, hfirst]
  simp only [Function.comp_def, State.robSlot_succ_of_retireMove]
  rfl

/-- Two occupied places of the ROB differ. -/
theorem State.robSlot_ne {s : State} {p q : Nat} (hp : p < q) (hq : q < s.cfg.robSize) :
    s.robSlot p ≠ s.robSlot q := by
  intro h
  have hmod : p % s.cfg.robSize = q % s.cfg.robSize := Nat.ModEq.add_left_cancel' s.robHead h
  rw [Nat.mod_eq_of_lt (hp.trans hq), Nat.mod_eq_of_lt hq] at hmod
  omega

/-- Dispatch appends one entry. -/
theorem State.robEntries_dispatchMove {s : State} (j k : Nat) (src1 src2 : Snapshot) (newTag oldTag : Option Nat)
    (hlen : s.rob.length = s.cfg.robSize) (hcount : s.robCount < s.cfg.robSize) :
    (s.dispatchMove j k src1 src2 newTag oldTag).robEntries = s.robEntries ++ [⟨j, newTag, oldTag⟩] := by
  have hslot : s.robSlot s.robCount < s.rob.length := by
    rw [hlen]
    exact Nat.mod_lt _ (by omega)
  show (List.range (s.robCount + 1)).map (fun q => (s.rob.set (s.robSlot s.robCount) ⟨j, newTag, oldTag⟩).getD
    (s.robSlot q) RobEntry.initial) = _
  rw [List.range_succ, List.map_append]
  congr 1
  · refine List.map_congr_left fun q hq => ?_
    have hne : s.robSlot q ≠ s.robSlot s.robCount := State.robSlot_ne (List.mem_range.mp hq) hcount
    simp [List.getD_eq_getElem?_getD, List.getElem?_set_ne (Ne.symm hne)]
  · simp [List.getD_eq_getElem?_getD, List.getElem?_set_self hslot]

/-! ## The parts of `Placed` -/

/-- The in-order parts hold the instructions in program order (R86, R285). -/
structure State.InOrder (s : State) : Prop where
  rob_order : s.robEntries.map RobEntry.inst = List.range' s.nRetired s.robCount
  front_order : s.dq ++ s.fq = List.range' s.numDispatched (s.fetchPtr - s.numDispatched)
  dispatched_le : s.numDispatched ≤ s.fetchPtr
  fetchPtr_le : s.fetchPtr ≤ s.progLen
  done_all : s.status = .done → s.nRetired = s.progLen

/-- Stations and back-references agree (R40, R44). -/
structure State.Stationed (s : State) : Prop where
  busy_iff : ∀ r ∈ s.rs, r.busy = r.inst.isSome
  held : ∀ k < s.rs.length, ∀ j ∈ s.stationInst k,
    s.nRetired ≤ j ∧ j < s.numDispatched ∧ (s.record j).rsIdx = some k
      ∧ s.stationType k = some (s.record j).instr.kind
  holds : ∀ j < s.progLen, ∀ k ∈ (s.record j).rsIdx, s.stationInst k = some j

/-- XQ and CQ hold instructions of the program, each once. -/
structure State.Queued (s : State) : Prop where
  xq_nodup : s.xq.Nodup
  xq_lt : ∀ j ∈ s.xq, j < s.progLen
  cq_nodup : s.cq.Nodup
  cq_lt : ∀ j ∈ s.cq, j < s.progLen

/-- The record of instruction `j` says in which part of the block `j` is. -/
structure State.Locates (s : State) (j : Nat) (r : InstrRecord) : Prop where
  renamed_iff : r.renamed = true ↔ j < s.numDispatched
  retired_iff : r.retired = true ↔ j < s.nRetired
  xq_iff : j ∈ s.xq ↔ r.issued = true ∧ r.executed = false
  cq_iff : j ∈ s.cq ↔ r.executed = true ∧ r.completed = false
  fetch_set : r.ts.fetch ≠ unset ↔ j < s.fetchPtr
  decode_set : r.ts.decode ≠ unset ↔ j < s.fetchPtr - s.fq.length

/-- Every record of the program is coherent and says where its instruction is. -/
def State.Recorded (s : State) : Prop :=
  ∀ j < s.progLen, (s.record j).Coherent s.cfg ∧ s.Locates j (s.record j)

theorem State.placed_iff {s : State} :
    s.Placed ↔ s.InOrder ∧ s.Stationed ∧ s.Queued ∧ s.Recorded := by
  constructor
  · intro h
    exact ⟨⟨h.rob_order, h.front_order, h.dispatched_le, h.fetchPtr_le, h.done_all⟩,
      ⟨h.busy_iff, h.held, h.holds⟩, ⟨h.xq_nodup, h.xq_lt, h.cq_nodup, h.cq_lt⟩, fun j hj =>
      ⟨⟨h.retired_completed j hj, h.completed_executed j hj, h.executed_issued j hj, h.issued_renamed j hj,
        h.rsIdx_iff j hj, h.untouched j hj, h.dispatch_set j hj, h.issue_set j hj, h.complete_set j hj,
        h.retire_set j hj, h.lat_eq j hj⟩,
      ⟨by simp [h.renamed_iff j hj], by simp [h.retired_iff j hj], h.xq_iff j hj, h.cq_iff j hj,
        h.fetch_set j hj, h.decode_set j hj⟩⟩⟩
  · rintro ⟨ho, hs, hq, hr⟩
    exact {
      rob_order := ho.rob_order, front_order := ho.front_order, dispatched_le := ho.dispatched_le
      fetchPtr_le := ho.fetchPtr_le, done_all := ho.done_all
      busy_iff := hs.busy_iff, held := hs.held, holds := hs.holds
      xq_nodup := hq.xq_nodup, xq_lt := hq.xq_lt, cq_nodup := hq.cq_nodup, cq_lt := hq.cq_lt
      renamed_iff := fun j hj => Bool.eq_iff_iff.mpr ((hr j hj).2.renamed_iff.trans decide_eq_true_iff.symm)
      retired_iff := fun j hj => Bool.eq_iff_iff.mpr ((hr j hj).2.retired_iff.trans decide_eq_true_iff.symm)
      retired_completed := fun j hj => (hr j hj).1.retired_completed
      completed_executed := fun j hj => (hr j hj).1.completed_executed
      executed_issued := fun j hj => (hr j hj).1.executed_issued
      issued_renamed := fun j hj => (hr j hj).1.issued_renamed
      rsIdx_iff := fun j hj => (hr j hj).1.rsIdx_iff
      untouched := fun j hj => (hr j hj).1.untouched
      xq_iff := fun j hj => (hr j hj).2.xq_iff
      cq_iff := fun j hj => (hr j hj).2.cq_iff
      fetch_set := fun j hj => (hr j hj).2.fetch_set
      decode_set := fun j hj => (hr j hj).2.decode_set
      dispatch_set := fun j hj => (hr j hj).1.dispatch_set
      issue_set := fun j hj => (hr j hj).1.issue_set
      complete_set := fun j hj => (hr j hj).1.complete_set
      retire_set := fun j hj => (hr j hj).1.retire_set
      lat_eq := fun j hj => (hr j hj).1.lat_eq }

/-- There is one record for each descriptor. -/
theorem length_of_decodeFrom_eq_ok {numArch : Nat} {prog : Memory} {i n : Nat} {is : List Instr}
    (h : decodeFrom numArch prog i n = .ok is) : is.length = n := by
  induction n generalizing i is with
  | zero =>
    cases h
    rfl
  | succ n ih =>
    rw [decodeFrom] at h
    split at h
    next => cases h
    next instr hfirst =>
      split at h
      next => cases h
      next rest hrest =>
        cases h
        rw [List.length_cons, ih hrest]

theorem State.Shaped.recs_length {s : State} (h : s.Shaped) : s.recs.length = s.progLen := by
  have := length_of_decodeFrom_eq_ok h.loaded
  rwa [List.length_map] at this

/-- A state from its parts. -/
theorem State.Structured.of_parts {s : State} (hshaped : s.Shaped) (horder : s.InOrder) (hstations : s.Stationed)
    (hqueues : s.Queued) (hrecords : s.Recorded) : s.Structured :=
  ⟨hshaped, State.placed_iff.mpr ⟨horder, hstations, hqueues, hrecords⟩⟩

section Structured

variable {s : State} (h : s.Structured)

include h

theorem State.Structured.inOrder : s.InOrder := (State.placed_iff.mp h.placed).1

theorem State.Structured.queued : s.Queued := (State.placed_iff.mp h.placed).2.2.1

theorem State.Structured.coherent {j : Nat} (hj : j < s.progLen) : (s.record j).Coherent s.cfg :=
  ((State.placed_iff.mp h.placed).2.2.2 j hj).1

theorem State.Structured.locates {j : Nat} (hj : j < s.progLen) : s.Locates j (s.record j) :=
  ((State.placed_iff.mp h.placed).2.2.2 j hj).2

theorem State.Structured.lt_progLen_of_dispatched {j : Nat} (hj : j < s.numDispatched) : j < s.progLen :=
  hj.trans_le (h.placed.dispatched_le.trans h.placed.fetchPtr_le)

theorem State.Structured.lt_recs_length {j : Nat} (hj : j < s.progLen) : j < s.recs.length :=
  hj.trans_eq h.shaped.recs_length.symm

theorem State.Structured.lt_progLen_of_getElem? {j : Nat} {r : InstrRecord} (hr : s.recs[j]? = some r) :
    j < s.progLen := by
  rw [← h.shaped.recs_length]
  exact (List.getElem?_eq_some_iff.mp hr).1

/-- The instruction of the entry at the ROB head is the oldest unretired one (R285). -/
theorem State.Structured.head_inst {e : RobEntry} (hcount : s.robCount ≠ 0)
    (he : s.rob[s.robHead]? = some e) : e.inst = s.nRetired := by
  have horder := congrArg (·[0]?) h.placed.rob_order
  have hpos : 0 < s.robCount := Nat.pos_of_ne_zero hcount
  simpa [State.robEntries_getElem?_zero h.shaped.robHead_lt hcount he, hpos] using horder

/-- The instructions in the ROB are those dispatched and not retired. -/
theorem State.Structured.inst_mem_rob {e : RobEntry} (he : e ∈ s.robEntries) :
    s.nRetired ≤ e.inst ∧ e.inst < s.numDispatched := by
  have hmem : e.inst ∈ s.robEntries.map RobEntry.inst := List.mem_map_of_mem he
  rw [h.placed.rob_order, List.mem_range'_1] at hmem
  exact hmem

/-- The head of DQ is the first instruction not dispatched (R86). -/
theorem State.Structured.dq_head {j : Nat} {rest : List Nat} (hdq : s.dq = j :: rest) :
    j = s.numDispatched ∧ s.numDispatched < s.fetchPtr := by
  have hlen := congrArg List.length h.placed.front_order
  have hhead := congrArg (·[0]?) h.placed.front_order
  simp only [hdq, List.cons_append, List.length_cons, List.length_range'] at hlen
  have hlt : s.numDispatched < s.fetchPtr := by omega
  refine ⟨?_, hlt⟩
  simpa [hdq, Nat.sub_pos_of_lt hlt] using hhead

/-- The head of FQ is the first instruction not decoded (R86). -/
theorem State.Structured.fq_head {j : Nat} {rest : List Nat} (hfq : s.fq = j :: rest) :
    j = s.fetchPtr - s.fq.length ∧ s.numDispatched + s.dq.length + s.fq.length = s.fetchPtr := by
  have hlen := congrArg List.length h.placed.front_order
  have hplace := congrArg (·[s.dq.length]?) h.placed.front_order
  have hle := h.placed.dispatched_le
  have hpos : 0 < s.fq.length := by simp [hfq]
  simp only [List.length_append, List.length_range'] at hlen
  have hlt : s.dq.length < s.fetchPtr - s.numDispatched := by omega
  have hj : j = s.numDispatched + s.dq.length := by simpa [hfq, hlt] using hplace
  omega

/-- An instruction in a station has been dispatched and has not executed. -/
theorem State.Structured.of_held {k j : Nat} {st : Station} (hst : s.rs[k]? = some st)
    (hheld : st.held = some j) :
    j < s.progLen ∧ s.nRetired ≤ j ∧ (s.record j).renamed = true ∧ (s.record j).executed = false := by
  have hk : k < s.rs.length := (List.getElem?_eq_some_iff.mp hst).1
  have hinst : st.inst = some j := by
    unfold Station.held at hheld
    split at hheld
    · exact hheld
    · cases hheld
  obtain ⟨hlow, hhigh, hback, -⟩ := h.placed.held k hk j (by simp [State.stationInst, hst, hinst])
  have hj := h.lt_progLen_of_dispatched hhigh
  have hiff := (h.coherent hj).rsIdx_iff
  rw [hback, Option.isSome_some, eq_comm, Bool.and_eq_true, Bool.not_eq_true'] at hiff
  exact ⟨hj, hlow, hiff⟩

theorem State.Structured.of_mem_heldInstrs {j : Nat} (hj : j ∈ s.heldInstrs) :
    j < s.progLen ∧ s.nRetired ≤ j ∧ (s.record j).renamed = true ∧ (s.record j).executed = false := by
  obtain ⟨st, hmem, hheld⟩ := List.mem_filterMap.mp hj
  obtain ⟨k, hk⟩ := List.getElem?_of_mem hmem
  exact h.of_held hk hheld

/-- What a station holds is held by a busy station (R44). -/
theorem State.Structured.mem_heldInstrs_of_stationInst {k j : Nat} (hj : s.stationInst k = some j) :
    j ∈ s.heldInstrs := by
  obtain ⟨st, hst, hinst⟩ := Option.bind_eq_some_iff.mp hj
  have hmem := List.mem_of_getElem? hst
  exact State.mem_heldInstrs.mpr ⟨st, hmem, by rw [h.placed.busy_iff st hmem, hinst]; rfl, hinst⟩

/-- An instruction that has been dispatched and has not executed is in a station. -/
theorem State.Structured.mem_heldInstrs {j : Nat} (hj : j < s.progLen) (hrenamed : (s.record j).renamed = true)
    (hexecuted : (s.record j).executed = false) : j ∈ s.heldInstrs := by
  have hiff := (h.coherent hj).rsIdx_iff
  rw [hrenamed, hexecuted] at hiff
  obtain ⟨k, hk⟩ := Option.isSome_iff_exists.mp hiff
  exact h.mem_heldInstrs_of_stationInst (h.placed.holds j hj k hk)

end Structured

/-! ## What a change of one record leaves of the records -/

/-- The instructions whose records do not change keep their places when the state says the same of each. -/
theorem State.Recorded.of_modify {s t : State} {j : Nat} {f : InstrRecord → InstrRecord} (h : s.Structured)
    (hrecs : t.recs = s.recs.modify j f) (hcfg : t.cfg = s.cfg) (hlen : t.progLen = s.progLen)
    (hj : j < s.progLen) (hself : (f (s.record j)).Coherent s.cfg ∧ t.Locates j (f (s.record j)))
    (hother : ∀ m ≠ j, ∀ r, s.Locates m r → t.Locates m r) : t.Recorded := by
  intro m hm
  rw [hlen] at hm
  rw [hcfg]
  by_cases hmj : m = j
  · subst hmj
    rwa [State.record_self_of_modify hrecs (h.lt_recs_length hm)]
  · rw [State.record_other_of_modify hrecs hmj]
    exact ⟨h.coherent hm, hother m hmj _ (h.locates hm)⟩

/-- Stations and back-references stay in agreement where neither changes. -/
theorem State.Stationed.of_modify {s t : State} {j : Nat} {f : InstrRecord → InstrRecord} (h : s.Structured)
    (hrecs : t.recs = s.recs.modify j f) (hcfg : t.cfg = s.cfg) (hlen : t.progLen = s.progLen)
    (hrs : t.rs = s.rs) (hdispatched : t.numDispatched = s.numDispatched)
    (hretired : ∀ m ∈ s.heldInstrs, s.nRetired ≤ m → t.nRetired ≤ m)
    (hf : ∀ r, (f r).rsIdx = r.rsIdx ∧ (f r).instr = r.instr) : t.Stationed := by
  have hrecord : ∀ m, (t.record m).rsIdx = (s.record m).rsIdx ∧ (t.record m).instr = (s.record m).instr :=
    fun m => ⟨State.record_field_of_modify InstrRecord.rsIdx hrecs (fun r => (hf r).1) m,
      State.record_field_of_modify InstrRecord.instr hrecs (fun r => (hf r).2) m⟩
  have hinst : ∀ k, t.stationInst k = s.stationInst k := fun k => by rw [State.stationInst, State.stationInst, hrs]
  have htype : ∀ k, t.stationType k = s.stationType k := fun k => by rw [State.stationType, State.stationType, hcfg]
  refine ⟨by rw [hrs]; exact h.placed.busy_iff, ?_, ?_⟩
  · intro k hk m hm
    rw [hrs] at hk
    rw [hinst] at hm
    obtain ⟨hlow, hhigh, hback, hkind⟩ := h.placed.held k hk m hm
    rw [hdispatched, (hrecord m).1, (hrecord m).2, htype]
    exact ⟨hretired m (h.mem_heldInstrs_of_stationInst hm) hlow, hhigh, hback, hkind⟩
  · intro m hm k hk
    rw [hlen] at hm
    rw [(hrecord m).1] at hk
    rw [hinst]
    exact h.placed.holds m hm k hk

end Sys2Proof.Machine
end

section
/-!
SUPPORT. Every move keeps the shape of the state and every instruction in its place, and so does every step
(R40 to R45, R86, R285).
-/
namespace Sys2Proof.Machine

/-! ## Changes that no place depends on -/

/-- The maps, the readiness bits and the release lists enter the shape by their lengths alone. -/
theorem State.Structured.of_registers {s : State} (h : s.Structured) {specMap archMap freeList pendingFree : List Nat}
    {specReady : List Bool} (hmap : specMap.length = s.specMap.length)
    (hready : specReady.length = s.specReady.length) (harch : archMap.length = s.archMap.length) :
    { s with
        specMap := specMap, specReady := specReady, archMap := archMap
        freeList := freeList, pendingFree := pendingFree }.Structured where
  shaped := { h.shaped with
    specMap_length := hmap.trans h.shaped.specMap_length
    specReady_length := hready.trans h.shaped.specReady_length
    archMap_length := harch.trans h.shaped.archMap_length }
  placed := { h.placed with }

theorem State.Structured.cycleStart {s : State} (h : s.Structured) : (cycleStart s).Structured where
  shaped := { h.shaped with }
  placed := { h.placed with }

/-- Renaming a destination moves no instruction. -/
theorem State.Structured.renameDestination {s : State} (h : s.Structured) {d : Operand} {n : Renaming}
    (hn : s.renameDestination d = .ok n) : n.state.Structured := by
  obtain ⟨-, rfl⟩ | ⟨a, t, rest, old, -, -, -, -, rfl⟩ := State.renameDestination_eq_ok.mp hn
  · exact h
  · exact h.of_registers List.length_set List.length_set rfl

/-- A commitment moves no instruction. -/
theorem State.Structured.commit {s v : State} (h : s.Structured) {d : Operand} {e : RobEntry}
    (hv : s.commit d e = .ok v) : v.Structured := by
  obtain ⟨-, rfl⟩ | ⟨a, p, old, -, -, -, -, rfl⟩ := State.commit_eq_ok.mp hv
  · exact h
  · exact h.of_registers rfl rfl List.length_set

/-- A broadcast with its readiness bit moves no instruction: what it wakes has been dispatched. -/
theorem State.Structured.signalled {s : State} (h : s.Structured) (p : Nat) : (s.signalled p).Structured := by
  have hrsIdx : ∀ j, ((s.signalled p).record j).rsIdx = (s.record j).rsIdx :=
    State.signalled_field InstrRecord.rsIdx s p fun _ => rfl
  have hinstr : ∀ j, ((s.signalled p).record j).instr = (s.record j).instr :=
    State.signalled_field InstrRecord.instr s p fun _ => rfl
  refine .of_parts ?_ { h.inOrder with } ⟨h.placed.busy_iff, ?_, ?_⟩ { h.queued with } fun j hj => ?_
  · exact { h.shaped with
      loaded := h.shaped.loaded.trans (congrArg _ (map_instr_wakeAll p s.heldInstrs s.recs).symm)
      specReady_length := List.length_set.trans h.shaped.specReady_length }
  · intro k hk j hj
    obtain ⟨hlow, hhigh, hback, hkind⟩ := h.placed.held k hk j hj
    exact ⟨hlow, hhigh, (hrsIdx j).trans hback, (hinstr j).symm ▸ hkind⟩
  · intro j hj k hk
    rw [hrsIdx j] at hk
    exact h.placed.holds j hj k hk
  · have hloc := h.locates hj
    rw [s.signalled_record p (h.lt_recs_length hj)]
    split
    next hheld =>
      obtain ⟨-, -, hrenamed, -⟩ := h.of_mem_heldInstrs hheld
      exact ⟨(h.coherent hj).woken hrenamed p, { hloc with }⟩
    next => exact ⟨h.coherent hj, { hloc with }⟩

/-! ## The moves -/

/-- A change of records that keeps the static fields keeps them those the program decodes to. -/
theorem State.Shaped.loaded_modify {s : State} (h : s.Shaped) {j : Nat} {f : InstrRecord → InstrRecord}
    {recs : List InstrRecord} (hrecs : recs = s.recs.modify j f) (hf : ∀ r, (f r).instr = r.instr) :
    s.program = .ok (recs.map InstrRecord.instr) := by
  rw [hrecs, map_instr_modify _ hf]
  exact h.loaded

theorem State.Structured.fetchMove {s : State} (h : s.Structured) (hlt : s.fetchPtr < s.progLen)
    (hroom : s.fq.length < s.cfg.capFQ) : s.fetchMove.Structured := by
  have hnot : s.numDispatched ≤ s.fetchPtr := h.placed.dispatched_le
  have hloc := h.locates hlt
  have hlen : (s.fq ++ [s.fetchPtr]).length = s.fq.length + 1 := by simp
  refine .of_parts ?_ ?_ ?_ { h.queued with } ?_
  · exact { h.shaped with
      loaded := h.shaped.loaded_modify s.fetchMove_recs fun _ => rfl
      idle := rfl
      fq_length := by
        show (s.fq ++ [s.fetchPtr]).length ≤ s.cfg.capFQ
        omega }
  · refine { h.inOrder with front_order := ?_, dispatched_le := Nat.le_succ_of_le hnot, fetchPtr_le := hlt }
    show s.dq ++ (s.fq ++ [s.fetchPtr]) = List.range' s.numDispatched (s.fetchPtr + 1 - s.numDispatched)
    rw [Nat.succ_sub hnot, List.range'_1_concat, ← List.append_assoc, h.placed.front_order]
    congr 2
    omega
  · exact .of_modify h s.fetchMove_recs rfl rfl rfl rfl (fun _ _ hm => hm) fun _ => ⟨rfl, rfl⟩
  · refine .of_modify h s.fetchMove_recs rfl rfl hlt ⟨(h.coherent hlt).fetched _, ?_⟩ fun m hm r hr => ?_
    · refine { hloc with fetch_set := ?_, decode_set := ?_ }
      · exact iff_of_true (natCast_ne_unset _) (Nat.lt_succ_self _)
      · refine hloc.decode_set.trans ?_
        show s.fetchPtr < s.fetchPtr - s.fq.length ↔ s.fetchPtr < s.fetchPtr + 1 - (s.fq ++ [s.fetchPtr]).length
        omega
    · refine { hr with fetch_set := hr.fetch_set.trans ?_, decode_set := hr.decode_set.trans ?_ }
      · show m < s.fetchPtr ↔ m < s.fetchPtr + 1
        omega
      · show m < s.fetchPtr - s.fq.length ↔ m < s.fetchPtr + 1 - (s.fq ++ [s.fetchPtr]).length
        omega

theorem State.Structured.decodeMove {s : State} (h : s.Structured) {j : Nat} {rest : List Nat}
    (hfq : s.fq = j :: rest) (hroom : s.dq.length < s.cfg.capDQ) : (s.decodeMove j).Structured := by
  obtain ⟨hj, hlen⟩ := h.fq_head hfq
  have hrest : s.fq.length = rest.length + 1 := by rw [hfq, List.length_cons]
  have htail : s.fq.tail.length = rest.length := by rw [hfq, List.tail_cons]
  have hlt : j < s.progLen := by
    have := h.placed.fetchPtr_le
    omega
  have hloc := h.locates hlt
  refine .of_parts ?_ ?_ ?_ { h.queued with } ?_
  · exact { h.shaped with
      loaded := h.shaped.loaded_modify (s.decodeMove_recs j) fun _ => rfl
      idle := rfl
      fq_length := by
        have := h.shaped.fq_length
        show s.fq.tail.length ≤ s.cfg.capFQ
        omega
      dq_length := by
        show (s.dq ++ [j]).length ≤ s.cfg.capDQ
        rw [List.length_append, List.length_singleton]
        omega }
  · refine { h.inOrder with front_order := ?_ }
    have hsame : (s.dq ++ [j]) ++ s.fq.tail = s.dq ++ s.fq := by simp [hfq]
    exact hsame.trans h.placed.front_order
  · exact .of_modify h (s.decodeMove_recs j) rfl rfl rfl rfl (fun _ _ hm => hm) fun _ => ⟨rfl, rfl⟩
  · refine .of_modify h (s.decodeMove_recs j) rfl rfl hlt ⟨(h.coherent hlt).decoded _, ?_⟩ fun m hm r hr => ?_
    · refine { hloc with decode_set := iff_of_true (natCast_ne_unset _) ?_ }
      show j < s.fetchPtr - s.fq.tail.length
      omega
    · refine { hr with decode_set := hr.decode_set.trans ?_ }
      show m < s.fetchPtr - s.fq.length ↔ m < s.fetchPtr - s.fq.tail.length
      omega

/-- What dispatch finds when it makes its move: the instruction behind the dispatched ones, a free ROB entry and a
free station of its type. -/
structure State.Dispatchable (s : State) (j k : Nat) : Prop where
  next : j = s.numDispatched
  fetched : j < s.fetchPtr
  queued : ∃ rest, s.dq = j :: rest
  entry : s.robCount < s.cfg.robSize
  station : ∃ st, s.rs[k]? = some st ∧ st.busy = false
  type : s.stationType k = some (s.record j).instr.kind

theorem State.Structured.dispatchMove_stationed {s : State} (h : s.Structured) {j k : Nat}
    (hd : s.Dispatchable j k) (src1 src2 : Snapshot) (newTag oldTag : Option Nat) :
    (s.dispatchMove j k src1 src2 newTag oldTag).Stationed := by
  obtain ⟨st, hst, hfree⟩ := hd.station
  have hk : k < s.rs.length := (List.getElem?_eq_some_iff.mp hst).1
  have hempty : s.stationInst k = none := by
    have := h.placed.busy_iff st (List.mem_of_getElem? hst)
    simpa [State.stationInst, hst, hfree] using this
  have hj : j < s.progLen := hd.fetched.trans_le h.placed.fetchPtr_le
  have hrecs := s.dispatchMove_recs j k src1 src2 newTag oldTag
  have hself := State.record_self_of_modify hrecs (h.lt_recs_length hj)
  have hinst_self : (s.dispatchMove j k src1 src2 newTag oldTag).stationInst k = some j := by
    show ((s.rs.set k { busy := true, inst := some j })[k]?).bind Station.inst = some j
    rw [List.getElem?_set_self hk]
    rfl
  have hinst_other : ∀ m ≠ k, (s.dispatchMove j k src1 src2 newTag oldTag).stationInst m = s.stationInst m := by
    intro m hm
    show ((s.rs.set k { busy := true, inst := some j })[m]?).bind Station.inst = _
    rw [List.getElem?_set_ne (Ne.symm hm)]
    rfl
  have hcount : (s.dispatchMove j k src1 src2 newTag oldTag).numDispatched = s.numDispatched + 1 := rfl
  refine ⟨fun st' hst' => ?_, fun m hm i hi => ?_, fun i hi m hm => ?_⟩
  · obtain hold | rfl := List.mem_or_eq_of_mem_set hst'
    · exact h.placed.busy_iff st' hold
    · rfl
  · have hm' : m < s.rs.length := hm.trans_eq List.length_set
    by_cases hmk : m = k
    · subst hmk
      obtain rfl : j = i := Option.some.inj (hinst_self.symm.trans hi)
      rw [hself, hcount]
      exact ⟨hd.next ▸ Nat.le_add_right _ _, by have := hd.next; omega, rfl, hd.type⟩
    · rw [hinst_other m hmk] at hi
      obtain ⟨hlow, hhigh, hback, hkind⟩ := h.placed.held m hm' i hi
      have hij : i ≠ j := by have := hd.next; omega
      rw [State.record_other_of_modify hrecs hij, hcount]
      exact ⟨hlow, by omega, hback, hkind⟩
  · by_cases hij : i = j
    · subst hij
      rw [hself] at hm
      obtain rfl : k = m := Option.some.inj hm
      exact hinst_self
    · rw [State.record_other_of_modify hrecs hij] at hm
      have hold := h.placed.holds i hi m hm
      have hmk : m ≠ k := by
        rintro rfl
        rw [hempty] at hold
        cases hold
      rw [hinst_other m hmk]
      exact hold

theorem State.Structured.dispatchMove {s : State} (h : s.Structured) {j k : Nat} (hd : s.Dispatchable j k)
    (src1 src2 : Snapshot) (newTag oldTag : Option Nat) :
    (s.dispatchMove j k src1 src2 newTag oldTag).Structured := by
  have hj : j < s.progLen := hd.fetched.trans_le h.placed.fetchPtr_le
  have hloc := h.locates hj
  have hrenamed : (s.record j).renamed = false := by
    rw [Bool.eq_false_iff, Ne, hloc.renamed_iff, ← hd.next]
    exact Nat.lt_irrefl j
  have hnext := hd.next
  have hentry := hd.entry
  obtain ⟨rest, hdq⟩ := hd.queued
  have hrecs := s.dispatchMove_recs j k src1 src2 newTag oldTag
  have hcount : (s.dispatchMove j k src1 src2 newTag oldTag).numDispatched = s.numDispatched + 1 := rfl
  refine .of_parts ?_ ?_ (h.dispatchMove_stationed hd src1 src2 newTag oldTag) { h.queued with } ?_
  · exact { h.shaped with
      loaded := h.shaped.loaded_modify hrecs fun _ => rfl
      idle := rfl
      rob_length := List.length_set.trans h.shaped.rob_length
      robCount_le := hentry
      rs_length := List.length_set.trans h.shaped.rs_length
      dq_length := by
        have := h.shaped.dq_length
        show s.dq.tail.length ≤ s.cfg.capDQ
        rw [List.length_tail]
        omega }
  · refine { h.inOrder with rob_order := ?_, front_order := ?_, dispatched_le := ?_ }
    · rw [State.robEntries_dispatchMove j k src1 src2 newTag oldTag h.shaped.rob_length hentry, List.map_append,
        h.placed.rob_order]
      show List.range' s.nRetired s.robCount ++ [j] = List.range' s.nRetired (s.robCount + 1)
      rw [List.range'_1_concat, hnext]
      rfl
    · have hfront := congrArg List.tail h.placed.front_order
      rw [hdq, List.cons_append, List.tail_cons, List.tail_range'] at hfront
      show s.dq.tail ++ s.fq = List.range' (s.numDispatched + 1) (s.fetchPtr - (s.numDispatched + 1))
      rw [hdq, List.tail_cons, hfront]
      rfl
    · have := hd.fetched
      show s.numDispatched + 1 ≤ s.fetchPtr
      omega
  · refine .of_modify h hrecs rfl rfl hj ⟨(h.coherent hj).dispatched hrenamed _ _ _ _ _, ?_⟩ fun m hm r hr => ?_
    · refine { hloc with renamed_iff := iff_of_true rfl ?_ }
      rw [hcount]
      omega
    · refine { hr with renamed_iff := hr.renamed_iff.trans ?_ }
      rw [hcount]
      omega

theorem State.Structured.issueMove {s : State} (h : s.Structured) {j k : Nat} {st : Station}
    (hst : s.rs[k]? = some st) (hheld : st.held = some j) (hroom : s.xq.length < s.cfg.capXQ)
    (hissued : (s.record j).issued = false) : (s.issueMove j).Structured := by
  obtain ⟨hj, hlow, hrenamed, hexecuted⟩ := h.of_held hst hheld
  have hloc := h.locates hj
  have hnot : j ∉ s.xq := fun hmem => by simp [hloc.xq_iff, hissued] at hmem
  have hrecs := s.issueMove_recs j
  refine .of_parts ?_ { h.inOrder with } ?_ ?_ ?_
  · exact { h.shaped with
      loaded := h.shaped.loaded_modify hrecs fun _ => rfl
      idle := rfl
      xq_length := by
        show (s.xq ++ [j]).length ≤ s.cfg.capXQ
        rw [List.length_append, List.length_singleton]
        omega }
  · exact .of_modify h hrecs rfl rfl rfl rfl (fun _ _ hm => hm) fun _ => ⟨rfl, rfl⟩
  · refine { h.queued with xq_nodup := ?_, xq_lt := ?_ }
    · exact List.nodup_append.mpr ⟨h.placed.xq_nodup, List.nodup_singleton j, fun a ha b hb => by
        rw [List.mem_singleton.mp hb]
        rintro rfl
        exact hnot ha⟩
    · intro m hm
      obtain hm | hm := List.mem_append.mp hm
      · exact h.placed.xq_lt m hm
      · rwa [List.mem_singleton.mp hm]
  · refine .of_modify h hrecs rfl rfl hj ⟨(h.coherent hj).issued hrenamed hexecuted _, ?_⟩ fun m hm r hr => ?_
    · exact { hloc with xq_iff := iff_of_true (List.mem_append_right _ (List.mem_singleton_self j)) ⟨rfl, hexecuted⟩ }
    · refine { hr with xq_iff := Iff.trans ?_ hr.xq_iff }
      show m ∈ s.xq ++ [j] ↔ m ∈ s.xq
      simp [hm]

theorem State.Structured.executeMove_stationed {s : State} (h : s.Structured) {j k : Nat} (type : Kind)
    (hj : j < s.progLen) (hback : (s.record j).rsIdx = some k) : (s.executeMove j k type).Stationed := by
  have hrecs := s.executeMove_recs j k type
  have hself := State.record_self_of_modify hrecs (h.lt_recs_length hj)
  have hheld : s.stationInst k = some j := h.placed.holds j hj k hback
  have hinst_other : ∀ m ≠ k, (s.executeMove j k type).stationInst m = s.stationInst m := by
    intro m hm
    show ((s.rs.set k {})[m]?).bind Station.inst = _
    rw [List.getElem?_set_ne (Ne.symm hm)]
    rfl
  refine ⟨fun st' hst' => ?_, fun m hm i hi => ?_, fun i hi m hm => ?_⟩
  · obtain hold | rfl := List.mem_or_eq_of_mem_set hst'
    · exact h.placed.busy_iff st' hold
    · rfl
  · have hm' : m < s.rs.length := hm.trans_eq List.length_set
    by_cases hmk : m = k
    · subst hmk
      have hnone : (s.executeMove j m type).stationInst m = none := by
        show ((s.rs.set m {})[m]?).bind Station.inst = none
        rw [List.getElem?_set_self hm']
        rfl
      rw [hnone] at hi
      cases hi
    · rw [hinst_other m hmk] at hi
      obtain ⟨hlow, hhigh, hback', hkind⟩ := h.placed.held m hm' i hi
      have hij : i ≠ j := by
        rintro rfl
        exact hmk (Option.some.inj (hback'.symm.trans hback))
      rw [State.record_other_of_modify hrecs hij]
      exact ⟨hlow, hhigh, hback', hkind⟩
  · by_cases hij : i = j
    · subst hij
      rw [hself] at hm
      cases hm
    · rw [State.record_other_of_modify hrecs hij] at hm
      have hold := h.placed.holds i hi m hm
      have hmk : m ≠ k := by
        rintro rfl
        exact hij (Option.some.inj (hold.symm.trans hheld))
      rw [hinst_other m hmk]
      exact hold

theorem State.Structured.executeMove {s : State} (h : s.Structured) {j k : Nat} {type : Kind} {rest : List Nat}
    (hxq : s.xq = j :: rest) (hroom : s.cq.length < s.cfg.capCQ) (hback : (s.record j).rsIdx = some k)
    (htype : s.stationType k = some type) : (s.executeMove j k type).Structured := by
  have hmem : j ∈ s.xq := by simp [hxq]
  have hj := h.placed.xq_lt j hmem
  have hloc := h.locates hj
  obtain ⟨hissued, hexecuted⟩ := hloc.xq_iff.mp hmem
  have hkind : type = (s.record j).instr.kind := by
    have hk : k < s.rs.length := by
      obtain ⟨st, hst, -⟩ := Option.bind_eq_some_iff.mp (h.placed.holds j hj k hback)
      exact (List.getElem?_eq_some_iff.mp hst).1
    obtain ⟨-, -, -, hkind⟩ := h.placed.held k hk j (h.placed.holds j hj k hback)
    exact Option.some.inj (htype.symm.trans hkind)
  have hnodup : j ∉ rest ∧ rest.Nodup := List.nodup_cons.mp (hxq ▸ h.placed.xq_nodup)
  have hnot : j ∉ s.cq := fun hmem => by simp [hloc.cq_iff, hexecuted] at hmem
  have hrecs := s.executeMove_recs j k type
  refine .of_parts ?_ { h.inOrder with } (h.executeMove_stationed type hj hback) ?_ ?_
  · exact { h.shaped with
      loaded := h.shaped.loaded_modify hrecs fun _ => rfl
      idle := rfl
      rs_length := List.length_set.trans h.shaped.rs_length
      xq_length := by
        have := h.shaped.xq_length
        show s.xq.tail.length ≤ s.cfg.capXQ
        rw [List.length_tail]
        omega
      cq_length := by
        show (s.cq ++ [j]).length ≤ s.cfg.capCQ
        rw [List.length_append, List.length_singleton]
        omega }
  · refine ⟨?_, fun m hm => h.placed.xq_lt m (List.mem_of_mem_tail hm), ?_, fun m hm => ?_⟩
    · exact h.placed.xq_nodup.sublist (List.tail_sublist _)
    · exact List.nodup_append.mpr ⟨h.placed.cq_nodup, List.nodup_singleton j, fun a ha b hb => by
        rw [List.mem_singleton.mp hb]
        rintro rfl
        exact hnot ha⟩
    · obtain hm | hm := List.mem_append.mp hm
      · exact h.placed.cq_lt m hm
      · rwa [List.mem_singleton.mp hm]
  · refine .of_modify h hrecs rfl rfl hj ⟨hkind ▸ (h.coherent hj).executed hissued _, ?_⟩ fun m hm r hr => ?_
    · have hdone := InstrRecord.executed_stamped_execute ((s.record j).leftStation (s.cfg.lat type)) s.cycle
      have hcompleted : (s.record j).completed = false := by
        rw [Bool.eq_false_iff]
        intro hc
        rw [(h.coherent hj).completed_executed hc] at hexecuted
        cases hexecuted
      refine { hloc with xq_iff := ?_, cq_iff := ?_ }
      · refine iff_of_false ?_ fun hc => ?_
        · show j ∉ s.xq.tail
          rw [hxq]
          exact hnodup.1
        · rw [hdone] at hc
          cases hc.2
      · exact iff_of_true (List.mem_append_right _ (List.mem_singleton_self j)) ⟨hdone, hcompleted⟩
    · refine { hr with xq_iff := Iff.trans ?_ hr.xq_iff, cq_iff := Iff.trans ?_ hr.cq_iff }
      · show m ∈ s.xq.tail ↔ m ∈ s.xq
        simp [hxq, hm]
      · show m ∈ s.cq ++ [j] ↔ m ∈ s.cq
        simp [hm]

theorem State.Structured.completeMove {s : State} (h : s.Structured) {j : Nat} (hmem : j ∈ s.cq) :
    (s.completeMove j).Structured := by
  have hj := h.placed.cq_lt j hmem
  have hloc := h.locates hj
  obtain ⟨hexecuted, -⟩ := hloc.cq_iff.mp hmem
  have hrecs := s.completeMove_recs j
  refine .of_parts ?_ { h.inOrder with } ?_ ?_ ?_
  · exact { h.shaped with
      loaded := h.shaped.loaded_modify hrecs fun _ => rfl
      idle := rfl
      cq_length := List.erase_sublist.length_le.trans h.shaped.cq_length }
  · exact .of_modify h hrecs rfl rfl rfl rfl (fun _ _ hm => hm) fun _ => ⟨rfl, rfl⟩
  · exact { h.queued with
      cq_nodup := h.placed.cq_nodup.sublist List.erase_sublist
      cq_lt := fun m hm => h.placed.cq_lt m (List.mem_of_mem_erase hm) }
  · refine .of_modify h hrecs rfl rfl hj ⟨(h.coherent hj).completed hexecuted _, ?_⟩ fun m hm r hr => ?_
    · refine { hloc with cq_iff := iff_of_false ?_ fun hc => Bool.noConfusion hc.2 }
      exact fun hc => (h.placed.cq_nodup.mem_erase_iff.mp hc).1 rfl
    · refine { hr with cq_iff := Iff.trans ?_ hr.cq_iff }
      exact List.mem_erase_of_ne hm

theorem State.Structured.retireMove {s : State} (h : s.Structured) {e : RobEntry} (hcount : s.robCount ≠ 0)
    (he : s.rob[s.robHead]? = some e) (hcompleted : (s.record e.inst).completed = true) :
    (s.retireMove e.inst).Structured := by
  have hinst := h.head_inst hcount he
  have hle := h.placed.dispatched_le
  have hend := h.placed.fetchPtr_le
  have hdispatched : (s.retireMove e.inst).numDispatched = s.numDispatched := by
    show s.nRetired + 1 + (s.robCount - 1) = s.nRetired + s.robCount
    omega
  have hj : e.inst < s.progLen := by
    refine h.lt_progLen_of_dispatched ?_
    rw [hinst]
    exact Nat.lt_add_of_pos_right (Nat.pos_of_ne_zero hcount)
  have hloc := h.locates hj
  have hrecs := s.retireMove_recs e.inst
  refine .of_parts ?_ ?_ ?_ { h.queued with } ?_
  · have hpos : 0 < s.cfg.robSize := Nat.zero_lt_of_lt h.shaped.robHead_lt
    exact { h.shaped with
      loaded := h.shaped.loaded_modify hrecs fun _ => rfl
      idle := rfl
      robHead_lt := Nat.mod_lt _ hpos
      robCount_le := (Nat.sub_le _ _).trans h.shaped.robCount_le }
  · refine ⟨?_, ?_, ?_, h.placed.fetchPtr_le, fun hdone => ?_⟩
    · have horder := congrArg List.tail h.placed.rob_order
      rw [State.robEntries_eq_cons_retireMove e.inst h.shaped.robHead_lt hcount he, List.map_cons, List.tail_cons,
        List.tail_range'] at horder
      exact horder
    · rw [hdispatched]
      exact h.placed.front_order
    · rw [hdispatched]
      exact h.placed.dispatched_le
    · have hall := h.placed.done_all hdone
      have hdis : s.numDispatched = s.nRetired + s.robCount := rfl
      omega
  · refine .of_modify h hrecs rfl rfl rfl hdispatched (fun m hm hlow => ?_) fun _ => ⟨rfl, rfl⟩
    obtain ⟨hmlt, -, -, hexecuted⟩ := h.of_mem_heldInstrs hm
    have hne : m ≠ s.nRetired := by
      rintro rfl
      rw [← hinst, (h.coherent hj).completed_executed hcompleted] at hexecuted
      cases hexecuted
    show s.nRetired + 1 ≤ m
    omega
  · refine .of_modify h hrecs rfl rfl hj ⟨(h.coherent hj).retired hcompleted _, ?_⟩ fun m hm r hr => ?_
    · refine { hloc with renamed_iff := ?_, retired_iff := iff_of_true rfl ?_ }
      · rw [hdispatched]
        exact hloc.renamed_iff
      · show e.inst < s.nRetired + 1
        omega
    · refine { hr with renamed_iff := ?_, retired_iff := hr.retired_iff.trans ?_ }
      · rw [hdispatched]
        exact hr.renamed_iff
      · show m < s.nRetired ↔ m < s.nRetired + 1
        omega

/-! ## Dispatch and renaming -/

/-- The preconditions of dispatch, read in a structured state (R200 to R202). -/
theorem State.Structured.dispatchable {s : State} (h : s.Structured) {j k : Nat} {rest : List Nat} {r : InstrRecord}
    {d : Operand} (hdq : s.dq = j :: rest) (hr : s.recs[j]? = some r)
    (hk : s.dispatchStation r.instr.kind d = some k) : s.Dispatchable j k := by
  obtain ⟨hj, hlt⟩ := h.dq_head hdq
  obtain ⟨hentry, hfree, -⟩ := State.dispatchStation_eq_some.mp hk
  obtain ⟨htype, hst⟩ := State.freeStation_eq_some hfree
  refine ⟨hj, hj ▸ hlt, ⟨rest, hdq⟩, hentry, hst, ?_⟩
  rw [State.record_eq_of_getElem? hr]
  exact htype

theorem State.Dispatchable.renameDestination {s : State} {j k : Nat} (hd : s.Dispatchable j k) {d : Operand}
    {n : Renaming} (hn : s.renameDestination d = .ok n) : n.state.Dispatchable j k := by
  obtain ⟨-, rfl⟩ | ⟨a, t, rest, old, -, -, -, -, rfl⟩ := State.renameDestination_eq_ok.mp hn
  · exact hd
  · exact { hd with }

/-! ## The whole step -/

theorem structured_keptByRetire : KeptByRetire State.Structured := by
  intro s e r v h hcount he hr hdone hv
  have hrecord : (v.record e.inst).completed = true := by
    obtain ⟨-, rfl⟩ | ⟨a, p, old, -, -, -, -, rfl⟩ := State.commit_eq_ok.mp hv <;>
      exact (congrArg _ (State.record_eq_of_getElem? hr)).trans hdone
  have hrob : v.robCount ≠ 0 ∧ v.rob[v.robHead]? = some e := by
    obtain ⟨-, rfl⟩ | ⟨a, p, old, -, -, -, -, rfl⟩ := State.commit_eq_ok.mp hv <;> exact ⟨hcount, he⟩
  exact (h.commit hv).retireMove hrob.1 hrob.2 hrecord

theorem structured_keptByComplete : KeptByComplete State.Structured := by
  intro s j r v h hj hr hdue hv
  obtain ⟨-, rfl⟩ | ⟨p, -, -, rfl⟩ := markReady_broadcast_eq_ok.mp hv
  · exact h.completeMove hj
  · exact (h.signalled p).completeMove hj

theorem structured_keptAfterComplete : KeptAfterComplete State.Structured where
  deselect _ h := by rwa [State.deselect_of_idle h.shaped.idle]
  execute _ _ _ _ _ _ h hxq hr hroom hk htype :=
    h.executeMove hxq hroom ((congrArg _ (State.record_eq_of_getElem? hr)).trans hk) htype
  issue _ _ _ _ _ h hst hheld hr hroom _ hissued :=
    h.issueMove hst hheld hroom ((congrArg _ (State.record_eq_of_getElem? hr)).trans hissued)
  dispatch _ _ _ _ _ _ _ _ h hdq hr hk _ _ hn :=
    (h.renameDestination hn).dispatchMove ((h.dispatchable hdq hr hk).renameDestination hn) _ _ _ _
  decode _ _ _ h hfq hroom := h.decodeMove hfq hroom
  fetch _ h hlt hroom := h.fetchMove hlt hroom

/-- The end of a cycle moves no instruction, and it ends DONE only with every one retired (R136). -/
theorem State.Structured.cycleEnd {s : State} (h : s.Structured) : (cycleEnd s).Structured := by
  unfold Sys2Proof.Machine.cycleEnd
  split
  next hall => exact ⟨{ h.shaped with }, { h.placed with done_all := fun _ => hall }⟩
  next =>
    split
    next => exact ⟨{ h.shaped with }, { h.placed with done_all := fun hdone => by cases hdone }⟩
    next => exact ⟨{ h.shaped with }, { h.placed with }⟩

/-- At reset every record is as load makes it, and so is the record that stands for an index outside the program. -/
theorem State.record_ofReset_fresh (c : Config) (n : Nat) (prog : Memory) (is : List Instr) (j : Nat) :
    ∃ i, (State.ofReset c n prog is).record j = InstrRecord.fresh i := by
  rw [State.record, State.ofReset_recs, List.getD_eq_getElem?_getD, List.getElem?_map]
  cases is[j]? with
  | none => exact ⟨_, rfl⟩
  | some i => exact ⟨i, rfl⟩

/-- The reset state of an admitted program is structured (R330). -/
theorem ofReset_structured {c : Config} {n : Nat} {prog : Memory} {is : List Instr} (hlegal : c.legal = true)
    (hprogram : decodeFrom c.numArch prog 0 n = .ok is) (hwf : prog.wf = true) :
    (State.ofReset c n prog is).Structured := by
  have hpos : 1 ≤ c.robSize := by
    simp only [Config.legal, Bool.and_eq_true, decide_eq_true_eq] at hlegal
    omega
  refine .of_parts ?_ ?_ ?_ ?_ fun j _ => ?_
  · constructor
    case admitted => simp [State.admission, State.program, hlegal, hprogram]
    case loaded => simpa [State.program, Function.comp_def, InstrRecord.fresh] using hprogram
    case canonical => exact hwf
    case robHead_lt => exact hpos
    case archReady_reset => rfl
    all_goals simp [readyAtReset]
  · constructor <;> simp [State.robEntries, State.numDispatched]
  · refine ⟨fun r hr => ?_, fun k hk j hj => ?_, fun j hj k hk => ?_⟩
    · rw [List.eq_of_mem_replicate hr]
      rfl
    · obtain ⟨st, hst, hinst⟩ := Option.bind_eq_some_iff.mp hj
      rw [List.eq_of_mem_replicate (List.mem_of_getElem? hst)] at hinst
      cases hinst
    · obtain ⟨i, hi⟩ := State.record_ofReset_fresh c n prog is j
      rw [hi] at hk
      cases hk
  · constructor <;> simp
  · obtain ⟨i, hi⟩ := State.record_ofReset_fresh c n prog is j
    rw [hi]
    refine ⟨.fresh _ i, ?_⟩
    constructor <;> simp [InstrRecord.fresh, InstrRecord.executed, State.numDispatched]

theorem State.admission_eq_none {s : State} :
    s.admission = none ↔ s.cfg.legal = true ∧ ∃ is, s.program = .ok is := by
  unfold State.admission
  cases s.cfg.legal <;> cases s.program <;> simp

/-- While `rst` is asserted an admitted block holds its reset state, with `rst` as it is (R331). -/
theorem State.heldInReset_eq {s : State} {is : List Instr} (h : s.program = .ok is) :
    s.heldInReset = { State.ofReset s.cfg s.progLen s.prog is with rst := true } := by
  rw [State.heldInReset, State.construct]
  rw [State.program] at h
  rw [h]

theorem State.Structured.heldInReset {s : State} (h : s.Structured) : s.heldInReset.Structured := by
  obtain ⟨hlegal, -⟩ := State.admission_eq_none.mp h.shaped.admitted
  have hreset := ofReset_structured hlegal h.shaped.loaded h.shaped.canonical
  rw [State.heldInReset_eq h.shaped.loaded]
  exact ⟨{ hreset.shaped with }, { hreset.placed with }⟩

/-- A property that reset establishes, and that a cycle and its stages keep, is kept by every step. -/
theorem step_keeps (P : State → Prop) (hreset : ∀ s, P s → P s.heldInReset) (hstart : ∀ s, P s → P (cycleStart s))
    (hretire : KeptByRetire P) (hcomplete : KeptByComplete P) (hrest : KeptAfterComplete P)
    (hnodup : ∀ s, P s → s.cq.Nodup) (hend : ∀ s, P s → P (cycleEnd s)) {s t : State} (hs : P s)
    (h : step s = .next t) : P t := by
  obtain ⟨-, ⟨-, rfl⟩ | ⟨-, -, rfl⟩ | ⟨-, -, hcycle⟩⟩ := step_eq_next.mp h
  · exact hreset s hs
  · exact hs
  · obtain ⟨u, hu, rfl⟩ := cycle_keeps_of_nodup hretire hcomplete hrest hnodup (hstart s hs) hcycle
    exact hend u hu

/-- Settles O45: every move of every stage takes a structured state to a structured state. -/
theorem stepKeepsStructure : Obligations.StepKeepsStructure := fun _ _ hs h =>
  step_keeps State.Structured (fun _ => State.Structured.heldInReset) (fun _ => State.Structured.cycleStart)
    structured_keptByRetire structured_keptByComplete structured_keptAfterComplete
    (fun _ h => h.placed.cq_nodup) (fun _ => State.Structured.cycleEnd) hs h

end Sys2Proof.Machine
end

section
/-!
SUPPORT. Register conservation: every move keeps the four places a permutation of the physical registers, and the
tags of the ROB entries those of the records (R32, R43, R350).
-/
namespace Sys2Proof.Machine

/-! ## Moves that take no register and release none -/

/-- A move that keeps the four places, the ROB, and the tag and the static fields of every record. -/
theorem State.Conserved.of_frame {s t : State} (h : s.Conserved) (hplaces : t.registerPlaces.Perm s.registerPlaces)
    (hcfg : t.cfg = s.cfg) (hrob : t.robEntries = s.robEntries) (hdispatched : t.numDispatched = s.numDispatched)
    (hpd : ∀ m, (t.record m).pd = (s.record m).pd) (hinstr : ∀ m, (t.record m).instr = (s.record m).instr) :
    t.Conserved := by
  refine ⟨hcfg ▸ hplaces.trans h.partition, fun e he => ?_, fun e he => ?_, fun j hj => ?_⟩
  · rw [hrob] at he
    rw [hpd]
    exact h.newTag_eq e he
  · rw [hrob] at he
    rw [hinstr]
    exact h.oldTag_iff e he
  · rw [hdispatched] at hj
    rw [hpd, hinstr]
    exact h.pd_iff j hj

/-- A move that changes one record, and of the rest nothing that holds a register. -/
theorem State.Conserved.of_modify {s t : State} (h : s.Conserved) {j : Nat} {f : InstrRecord → InstrRecord}
    (hrecs : t.recs = s.recs.modify j f) (hplaces : t.registerPlaces = s.registerPlaces)
    (hcfg : t.cfg = s.cfg) (hrob : t.robEntries = s.robEntries) (hdispatched : t.numDispatched = s.numDispatched)
    (hf : ∀ r, (f r).pd = r.pd ∧ (f r).instr = r.instr) : t.Conserved :=
  h.of_frame (.of_eq hplaces) hcfg hrob hdispatched
    (State.record_field_of_modify InstrRecord.pd hrecs fun r => (hf r).1)
    (State.record_field_of_modify InstrRecord.instr hrecs fun r => (hf r).2)

/-- The registers released in the cycle before are pending, then free (R132). -/
theorem State.Conserved.cycleStart {s : State} (h : s.Conserved) : (cycleStart s).Conserved := by
  refine h.of_frame ?_ rfl rfl rfl (fun _ => rfl) fun _ => rfl
  have hmove : (s.freeList ++ s.pendingFree ++ (s.specMap ++ s.robEntries.filterMap RobEntry.oldTag)).Perm
      (s.freeList ++ (s.specMap ++ s.robEntries.filterMap RobEntry.oldTag ++ s.pendingFree)) := by
    rw [List.append_assoc]
    exact List.perm_append_comm.append_left _
  have hstart : (Sys2Proof.Machine.cycleStart s).registerPlaces
      = s.freeList ++ s.pendingFree ++ (s.specMap ++ s.robEntries.filterMap RobEntry.oldTag) := by
    show (s.freeList ++ s.pendingFree) ++ s.specMap ++ s.robEntries.filterMap RobEntry.oldTag ++ [] = _
    rw [List.append_nil, List.append_assoc]
  rw [hstart]
  simpa [State.registerPlaces] using hmove

/-- The end of a cycle writes the cycle number and the status alone (R137, R138). -/
theorem cycleEnd_eq (s : State) :
    ∃ (cycle : Nat) (status : Status), cycleEnd s = { s with cycle := cycle, status := status } := by
  unfold cycleEnd
  split
  next => exact ⟨s.cycle, .done, rfl⟩
  next =>
    split
    next => exact ⟨s.cycle, .aborted, rfl⟩
    next => exact ⟨s.cycle + 1, s.status, rfl⟩

theorem State.Conserved.cycleEnd {s : State} (h : s.Conserved) : (cycleEnd s).Conserved := by
  obtain ⟨cycle, status, heq⟩ := cycleEnd_eq s
  rw [heq]
  exact { h with }

/-- A broadcast and its readiness bit hold no register. -/
theorem State.Conserved.signalled {s : State} (h : s.Conserved) (p : Nat) : (s.signalled p).Conserved :=
  h.of_frame (.refl _) rfl rfl rfl (State.signalled_field InstrRecord.pd s p fun _ => rfl)
    (State.signalled_field InstrRecord.instr s p fun _ => rfl)

/-! ## Dispatch takes the head of the free list -/

/-- T and Told exist exactly where there is a destination (R206). -/
theorem renameDestination_isSome {s : State} {d : Operand} {n : Renaming} (hn : s.renameDestination d = .ok n) :
    n.newTag.isSome = d.isSome ∧ n.oldTag.isSome = d.isSome := by
  obtain ⟨rfl, rfl⟩ | ⟨a, t, rest, old, rfl, -, -, -, rfl⟩ := State.renameDestination_eq_ok.mp hn
  · exact ⟨rfl, rfl⟩
  · exact ⟨rfl, rfl⟩

/-- Renaming a destination leaves everything that holds no register. -/
theorem renameDestination_frame {s : State} {d : Operand} {n : Renaming} (hn : s.renameDestination d = .ok n) :
    n.state.recs = s.recs ∧ n.state.robEntries = s.robEntries ∧ n.state.cfg = s.cfg
      ∧ n.state.pendingFree = s.pendingFree ∧ n.state.numDispatched = s.numDispatched := by
  obtain ⟨-, rfl⟩ | ⟨a, t, rest, old, -, -, -, -, rfl⟩ := State.renameDestination_eq_ok.mp hn
  · exact ⟨rfl, rfl, rfl, rfl, rfl⟩
  · exact ⟨rfl, rfl, rfl, rfl, rfl⟩

/-- The register taken for the destination enters the map, and the one mapped before becomes Told. -/
theorem perm_of_renameDestination {s : State} {d : Operand} {n : Renaming} (hn : s.renameDestination d = .ok n) :
    (n.state.freeList ++ n.state.specMap ++ n.oldTag.toList).Perm (s.freeList ++ s.specMap) := by
  obtain ⟨-, rfl⟩ | ⟨a, t, rest, old, -, hfree, hmap, -, rfl⟩ := State.renameDestination_eq_ok.mp hn
  · exact .of_eq (List.append_nil _)
  · obtain ⟨ha, hold⟩ := List.getElem?_eq_some_iff.mp hmap
    have hset : (s.specMap.set a t ++ [old]).Perm (t :: s.specMap) :=
      calc s.specMap.set a t ++ [old]
        _ |>.Perm (old :: s.specMap.set a t) := List.perm_append_singleton _ _
        _ |>.Perm (old :: t :: s.specMap.eraseIdx a) := (List.set_perm_cons_eraseIdx ha t).cons old
        _ |>.Perm (t :: old :: s.specMap.eraseIdx a) := .swap ..
        _ |>.Perm (t :: s.specMap) := (hold ▸ List.getElem_cons_eraseIdx_perm ha).cons t
    show (rest ++ s.specMap.set a t ++ [old]).Perm (s.freeList ++ s.specMap)
    rw [hfree, List.append_assoc]
    exact (hset.append_left rest).trans List.perm_middle

/-- Dispatch moves registers between the places and loses none. -/
theorem registerPlaces_dispatchMove {s : State} (h : s.Structured) {j k : Nat} (hd : s.Dispatchable j k)
    {d : Operand} {n : Renaming} (hn : s.renameDestination d = .ok n) (src1 src2 : Snapshot) :
    (n.state.dispatchMove j k src1 src2 n.newTag n.oldTag).registerPlaces.Perm s.registerPlaces := by
  obtain ⟨-, hrob, hcfg, hpending, -⟩ := renameDestination_frame hn
  have hentries := State.robEntries_dispatchMove j k src1 src2 n.newTag n.oldTag
    (h.renameDestination hn).shaped.rob_length (hd.renameDestination hn).entry
  have holds : (s.robEntries ++ [RobEntry.mk j n.newTag n.oldTag]).filterMap RobEntry.oldTag
      = s.robEntries.filterMap RobEntry.oldTag ++ n.oldTag.toList := by
    rw [List.filterMap_append]
    cases n.oldTag <;> rfl
  show (n.state.freeList ++ n.state.specMap ++ (n.state.dispatchMove j k src1 src2 n.newTag
    n.oldTag).robEntries.filterMap RobEntry.oldTag ++ n.state.pendingFree).Perm _
  rw [hentries, hrob, holds, hpending]
  refine List.Perm.append_right _ ?_
  calc n.state.freeList ++ n.state.specMap ++ (s.robEntries.filterMap RobEntry.oldTag ++ n.oldTag.toList)
    _ |>.Perm (n.state.freeList ++ n.state.specMap ++ (n.oldTag.toList ++ s.robEntries.filterMap RobEntry.oldTag)) :=
      List.perm_append_comm.append_left _
    _ |>.Perm (n.state.freeList ++ n.state.specMap ++ n.oldTag.toList ++ s.robEntries.filterMap RobEntry.oldTag) :=
      .of_eq (List.append_assoc ..).symm
    _ |>.Perm (s.freeList ++ s.specMap ++ s.robEntries.filterMap RobEntry.oldTag) :=
      (perm_of_renameDestination hn).append_right _

theorem State.Conserved.dispatchMove {s : State} (hc : s.Conserved) (h : s.Structured) {j k : Nat}
    (hd : s.Dispatchable j k) {n : Renaming} (hn : s.renameDestination (s.record j).instr.dst = .ok n)
    (src1 src2 : Snapshot) : (n.state.dispatchMove j k src1 src2 n.newTag n.oldTag).Conserved := by
  obtain ⟨hrecs, hrob, hcfg, -, hdispatched⟩ := renameDestination_frame hn
  obtain ⟨hnew, hold⟩ := renameDestination_isSome hn
  have hj : j < s.recs.length := h.lt_recs_length (hd.fetched.trans_le h.placed.fetchPtr_le)
  have hentries := State.robEntries_dispatchMove j k src1 src2 n.newTag n.oldTag
    (h.renameDestination hn).shaped.rob_length (hd.renameDestination hn).entry
  have hmove : (n.state.dispatchMove j k src1 src2 n.newTag n.oldTag).recs
      = s.recs.modify j fun r => (r.dispatched src1 src2 n.newTag k).stamped n.state.cycle .dispatch := by
    rw [State.dispatchMove_recs, hrecs]
  have hself := State.record_self_of_modify hmove hj
  have hnext := hd.next
  have hcount : (n.state.dispatchMove j k src1 src2 n.newTag n.oldTag).numDispatched = s.numDispatched + 1 :=
    congrArg (· + 1) hdispatched
  have holder : ∀ e ∈ s.robEntries, e.inst ≠ j := fun e he => by
    have := (h.inst_mem_rob he).2
    omega
  refine ⟨(registerPlaces_dispatchMove h hd hn src1 src2).trans (hcfg ▸ hc.partition), fun e he => ?_,
    fun e he => ?_, fun m hm => ?_⟩
  · rw [hentries, hrob, List.mem_append, List.mem_singleton] at he
    obtain he | rfl := he
    · rw [State.record_other_of_modify hmove (holder e he)]
      exact hc.newTag_eq e he
    · rw [hself]
      rfl
  · rw [hentries, hrob, List.mem_append, List.mem_singleton] at he
    obtain he | rfl := he
    · rw [State.record_other_of_modify hmove (holder e he)]
      exact hc.oldTag_iff e he
    · rw [hself]
      exact hold
  · rw [hcount] at hm
    by_cases hmj : m = j
    · subst hmj
      rw [hself]
      exact hnew
    · rw [State.record_other_of_modify hmove hmj]
      exact hc.pd_iff m (by omega)

/-! ## Retirement releases Told -/

/-- Retirement moves Told of the head entry to the pending-release list (R283). -/
theorem State.Conserved.retireMove {s v : State} (hc : s.Conserved) (h : s.Structured) {e : RobEntry}
    (hcount : s.robCount ≠ 0) (he : s.rob[s.robHead]? = some e)
    (hv : s.commit (s.record e.inst).instr.dst e = .ok v) :
    (v.retireMove e.inst).Conserved ∧ s.robEntries = e :: (v.retireMove e.inst).robEntries
      ∧ v.pendingFree = s.pendingFree ++ e.oldTag.toList := by
  have hcons := State.robEntries_eq_cons_retireMove e.inst h.shaped.robHead_lt hcount he
  have hmem : e ∈ s.robEntries := by simp [hcons]
  have hold := hc.oldTag_iff e hmem
  have hframe : v.cfg = s.cfg ∧ v.recs = s.recs ∧ v.freeList = s.freeList ∧ v.specMap = s.specMap
      ∧ (v.retireMove e.inst).robEntries = (s.retireMove e.inst).robEntries
      ∧ (v.retireMove e.inst).numDispatched = (s.retireMove e.inst).numDispatched
      ∧ v.pendingFree = s.pendingFree ++ e.oldTag.toList := by
    obtain ⟨hd, rfl⟩ | ⟨a, p, old, hd, -, heold, -, rfl⟩ := State.commit_eq_ok.mp hv
    · have hnone : e.oldTag = none := by simpa [hd] using hold
      exact ⟨rfl, rfl, rfl, rfl, rfl, rfl, by simp [hnone]⟩
    · exact ⟨rfl, rfl, rfl, rfl, rfl, rfl, by simp [heold]⟩
  obtain ⟨hcfg, hrecs, hfree, hmap, hrob, hdispatched, hpending⟩ := hframe
  have hmove : (v.retireMove e.inst).recs = s.recs.modify e.inst fun r => r.markRetired.stamped v.cycle .retire := by
    rw [State.retireMove_recs, hrecs]
  have hsame : (s.retireMove e.inst).numDispatched = s.numDispatched := by
    show s.nRetired + 1 + (s.robCount - 1) = s.nRetired + s.robCount
    omega
  have hpd := State.record_field_of_modify InstrRecord.pd hmove fun _ => rfl
  have hinstr := State.record_field_of_modify InstrRecord.instr hmove fun _ => rfl
  refine ⟨⟨?_, fun e' he' => ?_, fun e' he' => ?_, fun m hm => ?_⟩, hrob ▸ hcons, hpending⟩
  · refine List.Perm.trans ?_ (hcfg ▸ hc.partition)
    show (v.freeList ++ v.specMap ++ (v.retireMove e.inst).robEntries.filterMap RobEntry.oldTag ++ v.pendingFree).Perm
      (s.freeList ++ s.specMap ++ s.robEntries.filterMap RobEntry.oldTag ++ s.pendingFree)
    rw [hfree, hmap, hrob, hpending, hcons]
    have htold : (e :: (s.retireMove e.inst).robEntries).filterMap RobEntry.oldTag
        = e.oldTag.toList ++ (s.retireMove e.inst).robEntries.filterMap RobEntry.oldTag := by
      rw [List.filterMap_cons]
      cases e.oldTag <;> rfl
    rw [htold]
    simp only [List.append_assoc]
    refine List.Perm.append_left _ (List.Perm.append_left _ ?_)
    exact (List.Perm.of_eq (List.append_assoc ..).symm).trans List.perm_append_comm
  · rw [hrob] at he'
    rw [hpd]
    exact hc.newTag_eq e' (by simp [hcons, he'])
  · rw [hrob] at he'
    rw [hinstr]
    exact hc.oldTag_iff e' (by simp [hcons, he'])
  · rw [hdispatched, hsame] at hm
    rw [hpd, hinstr]
    exact hc.pd_iff m hm

/-! ## The whole step -/

/-- A structured state with conserved registers. -/
def State.Sound (s : State) : Prop := s.Structured ∧ s.Conserved

theorem sound_keptByRetire : KeptByRetire State.Sound := by
  rintro s e r v ⟨h, hc⟩ hcount he hr hdone hv
  rw [← State.record_eq_of_getElem? hr] at hv
  exact ⟨structured_keptByRetire s e r v h hcount he hr hdone (State.record_eq_of_getElem? hr ▸ hv),
    (hc.retireMove h hcount he hv).1⟩

theorem sound_keptByComplete : KeptByComplete State.Sound := by
  rintro s j r v ⟨h, hc⟩ hj hr hdue hv
  refine ⟨structured_keptByComplete s j r v h hj hr hdue hv, ?_⟩
  have hkept : v.Conserved := by
    obtain ⟨-, rfl⟩ | ⟨p, -, -, rfl⟩ := markReady_broadcast_eq_ok.mp hv
    · exact hc
    · exact hc.signalled p
  exact hkept.of_modify (v.completeMove_recs j) rfl rfl rfl rfl fun _ => ⟨rfl, rfl⟩

theorem sound_keptAfterComplete : KeptAfterComplete State.Sound where
  deselect _ h := by rwa [State.deselect_of_idle h.1.shaped.idle]
  execute s j rest r k type h hxq hr hroom hk htype :=
    ⟨structured_keptAfterComplete.execute s j rest r k type h.1 hxq hr hroom hk htype,
      h.2.of_modify (s.executeMove_recs j k type) rfl rfl rfl rfl fun _ => ⟨rfl, rfl⟩⟩
  issue s k st j r h hst hheld hr hroom hready hissued :=
    ⟨structured_keptAfterComplete.issue s k st j r h.1 hst hheld hr hroom hready hissued,
      h.2.of_modify (s.issueMove_recs j) rfl rfl rfl rfl fun _ => ⟨rfl, rfl⟩⟩
  dispatch s j rest r k src1 src2 n h hdq hr hk h1 h2 hn :=
    ⟨structured_keptAfterComplete.dispatch s j rest r k src1 src2 n h.1 hdq hr hk h1 h2 hn,
      h.2.dispatchMove h.1 (h.1.dispatchable hdq hr hk)
        (by rwa [State.record_eq_of_getElem? hr]) src1 src2⟩
  decode s j rest h hfq hroom :=
    ⟨structured_keptAfterComplete.decode s j rest h.1 hfq hroom,
      h.2.of_modify (s.decodeMove_recs j) rfl rfl rfl rfl fun _ => ⟨rfl, rfl⟩⟩
  fetch s h hlt hroom :=
    ⟨structured_keptAfterComplete.fetch s h.1 hlt hroom,
      h.2.of_modify s.fetchMove_recs rfl rfl rfl rfl fun _ => ⟨rfl, rfl⟩⟩

/-- At reset the registers below A are mapped and the others free (R330). -/
theorem ofReset_conserved {c : Config} (n : Nat) (prog : Memory) (is : List Instr) (hlegal : c.legal = true) :
    (State.ofReset c n prog is).Conserved := by
  have hle : c.numArch ≤ c.numPhys := by
    simp only [Config.legal, Bool.and_eq_true, decide_eq_true_eq] at hlegal
    omega
  refine ⟨?_, by simp [State.robEntries], by simp [State.robEntries], by simp [State.numDispatched]⟩
  have hplaces : (State.ofReset c n prog is).registerPlaces
      = List.range' c.numArch (c.numPhys - c.numArch) ++ List.range c.numArch := by
    simp [State.registerPlaces, State.robEntries]
  have hall : List.range c.numPhys = List.range c.numArch ++ List.range' c.numArch (c.numPhys - c.numArch) :=
    calc List.range c.numPhys
      _ = List.range' 0 (c.numArch + (c.numPhys - c.numArch)) := by
        rw [List.range_eq_range', Nat.add_sub_cancel' hle]
      _ = List.range c.numArch ++ List.range' c.numArch (c.numPhys - c.numArch) := by
        rw [← List.range'_append_1, Nat.zero_add, List.range_eq_range']
  rw [hplaces, State.ofReset_cfg, hall]
  exact List.perm_append_comm

theorem State.Sound.heldInReset {s : State} (h : s.Sound) : s.heldInReset.Sound := by
  obtain ⟨hlegal, -⟩ := State.admission_eq_none.mp h.1.shaped.admitted
  refine ⟨h.1.heldInReset, ?_⟩
  rw [State.heldInReset_eq h.1.shaped.loaded]
  exact { ofReset_conserved s.progLen s.prog _ hlegal with }

/-- Settles O46: dispatch moves registers between the free list, the map and Told, retirement and the start of a
cycle between Told, the pending list and the free list; nothing else touches them. -/
theorem stepConservesRegisters : Obligations.StepConservesRegisters := fun _ _ hs hc h =>
  (step_keeps State.Sound (fun _ => State.Sound.heldInReset) (fun _ h => ⟨h.1.cycleStart, h.2.cycleStart⟩)
    sound_keptByRetire sound_keptByComplete sound_keptAfterComplete (fun _ h => h.1.placed.cq_nodup)
    (fun _ h => ⟨h.1.cycleEnd, h.2.cycleEnd⟩) ⟨hs, hc⟩ h).2

end Sys2Proof.Machine
end

section
/-!
SUPPORT. Renaming and wakeup: the last writer of a register, the tags of the instructions in flight, and what
dispatch, completion and retirement do to the maps, the tags and the ready bits (R34 to R36, R205, R267, R284).
-/
namespace Sys2Proof.Machine

/-! ## The last writer -/

theorem State.lastWriter_succ (s : State) (a j : Nat) :
    s.lastWriter a (j + 1) = if (s.record j).instr.dst = some a then some j else s.lastWriter a j := rfl

theorem State.lastWriter_spec {s : State} {a n i : Nat} (h : s.lastWriter a n = some i) :
    i < n ∧ (s.record i).instr.dst = some a := by
  induction n with
  | zero => cases h
  | succ n ih =>
    rw [State.lastWriter_succ] at h
    split at h
    next hdst =>
      cases h
      exact ⟨Nat.lt_succ_self _, hdst⟩
    next =>
      obtain ⟨hlt, hdst⟩ := ih h
      exact ⟨hlt.trans (Nat.lt_succ_self n), hdst⟩

/-- The last writer depends on the static fields alone. -/
theorem State.lastWriter_congr {s t : State} (h : ∀ m, (t.record m).instr = (s.record m).instr) (a n : Nat) :
    t.lastWriter a n = s.lastWriter a n := by
  induction n with
  | zero => rfl
  | succ n ih => rw [State.lastWriter_succ, State.lastWriter_succ, h, ih]

/-- A writer is the last one up to `n`, or the last one before the next writer. -/
theorem State.last_or_next_writer {s : State} {a i n : Nat} (hi : i < n) (hdst : (s.record i).instr.dst = some a) :
    s.lastWriter a n = some i
      ∨ ∃ m, i < m ∧ m < n ∧ (s.record m).instr.dst = some a ∧ s.lastWriter a m = some i := by
  induction n with
  | zero => omega
  | succ n ih =>
    rw [State.lastWriter_succ]
    by_cases hin : i = n
    · subst hin
      exact .inl (if_pos hdst)
    · have hlt : i < n := by omega
      obtain hlast | ⟨m, him, hmn, hm, hlast⟩ := ih hlt
      · by_cases hn : (s.record n).instr.dst = some a
        · exact .inr ⟨n, hlt, Nat.lt_succ_self n, hn, hlast⟩
        · exact .inl ((if_neg hn).trans hlast)
      · exact .inr ⟨m, him, hmn.trans (Nat.lt_succ_self n), hm, hlast⟩

theorem State.tagBefore_of_writer {s : State} {a n i : Nat} (h : s.lastWriter a n = some i) :
    s.tagBefore a n = (s.record i).pd := by
  simp [State.tagBefore, h]

theorem State.producerDone_of_writer {s : State} {a n i : Nat} (h : s.lastWriter a n = some i) :
    s.producerDone a n = (s.record i).completed := by
  simp [State.producerDone, h]

theorem State.producerDone_of_no_writer {s : State} {a n : Nat} (h : s.lastWriter a n = none) :
    s.producerDone a n = true := by
  simp [State.producerDone, h]

/-- The tag before instruction `n` depends on the static fields and on the tags before it. -/
theorem State.tagBefore_congr {s t : State} (hinstr : ∀ m, (t.record m).instr = (s.record m).instr) {n : Nat}
    (hpd : ∀ m < n, (t.record m).pd = (s.record m).pd) (a : Nat) : t.tagBefore a n = s.tagBefore a n := by
  unfold State.tagBefore
  rw [State.lastWriter_congr hinstr]
  cases hw : s.lastWriter a n with
  | none => rfl
  | some i => exact hpd i (State.lastWriter_spec hw).1

theorem State.producerDone_congr {s t : State} (hinstr : ∀ m, (t.record m).instr = (s.record m).instr) {n : Nat}
    (hdone : ∀ m < n, (t.record m).completed = (s.record m).completed) (a : Nat) :
    t.producerDone a n = s.producerDone a n := by
  unfold State.producerDone
  rw [State.lastWriter_congr hinstr]
  cases hw : s.lastWriter a n with
  | none => rfl
  | some i => exact hdone i (State.lastWriter_spec hw).1

/-- One more instruction changes the tag of its destination alone. -/
theorem State.tagBefore_succ (s : State) (a n : Nat) :
    s.tagBefore a (n + 1) = if (s.record n).instr.dst = some a then (s.record n).pd else s.tagBefore a n := by
  by_cases h : (s.record n).instr.dst = some a <;> simp [State.tagBefore, State.lastWriter_succ, h]

theorem State.producerDone_succ (s : State) (a n : Nat) :
    s.producerDone a (n + 1)
      = if (s.record n).instr.dst = some a then (s.record n).completed else s.producerDone a n := by
  by_cases h : (s.record n).instr.dst = some a <;> simp [State.producerDone, State.lastWriter_succ, h]

/-! ## `Renamed` in parts -/

/-- The two maps, Told and the readiness bits of the mapped tags are those of program order. -/
structure State.Mapped (s : State) : Prop where
  specMap_eq : ∀ a < s.cfg.numArch, s.specMap[a]? = s.tagBefore a s.numDispatched
  archMap_eq : ∀ a < s.cfg.numArch, s.archMap[a]? = s.tagBefore a s.nRetired
  oldTag_eq : ∀ e ∈ s.robEntries, ∀ a ∈ (s.record e.inst).instr.dst, e.oldTag = s.tagBefore a e.inst
  specReady_eq : ∀ a < s.cfg.numArch, ∀ p ∈ s.specMap[a]?,
    s.specReady[p]? = some (s.producerDone a s.numDispatched)

/-- The tag `p` and the ready bit `b` of a source `o` of instruction `j` are those of program order (R205, R267). -/
structure State.SourceRenamed (s : State) (j : Nat) (o : Operand) (p : Option Nat) (b : Bool) : Prop where
  tag : ∀ a ∈ o, p = s.tagBefore a j
  ready : ∀ a ∈ o, b = s.producerDone a j
  absent : o = none → p = none ∧ b = false

/-- Both sources of instruction `j`. -/
def State.SourcesRenamed (s : State) (j : Nat) (r : InstrRecord) : Prop :=
  s.SourceRenamed j r.instr.src1 r.ps1 r.rdy1 ∧ s.SourceRenamed j r.instr.src2 r.ps2 r.rdy2

/-- What has issued is ready (R231). -/
def InstrRecord.IssuedReady (r : InstrRecord) : Prop :=
  r.issued = true → readyToExecute r.instr.src1 r.instr.src2 r = true

theorem State.renamed_iff {s : State} :
    s.Renamed ↔ s.Mapped ∧ (∀ j < s.numDispatched, s.SourcesRenamed j (s.record j))
      ∧ ∀ j < s.progLen, (s.record j).IssuedReady := by
  constructor
  · intro h
    exact ⟨⟨h.specMap_eq, h.archMap_eq, h.oldTag_eq, h.specReady_eq⟩, fun j hj =>
      ⟨⟨h.ps1_eq j hj, h.rdy1_eq j hj, h.absent1 j hj⟩, ⟨h.ps2_eq j hj, h.rdy2_eq j hj, h.absent2 j hj⟩⟩,
      h.issued_ready⟩
  · rintro ⟨hm, hs, hi⟩
    exact {
      specMap_eq := hm.specMap_eq, archMap_eq := hm.archMap_eq
      oldTag_eq := hm.oldTag_eq, specReady_eq := hm.specReady_eq
      ps1_eq := fun j hj => (hs j hj).1.tag
      ps2_eq := fun j hj => (hs j hj).2.tag
      rdy1_eq := fun j hj => (hs j hj).1.ready
      rdy2_eq := fun j hj => (hs j hj).2.ready
      absent1 := fun j hj => (hs j hj).1.absent
      absent2 := fun j hj => (hs j hj).2.absent
      issued_ready := hi }

theorem State.Renamed.mapped {s : State} (h : s.Renamed) : s.Mapped := (State.renamed_iff.mp h).1

theorem State.Renamed.sources {s : State} (h : s.Renamed) {j : Nat} (hj : j < s.numDispatched) :
    s.SourcesRenamed j (s.record j) := (State.renamed_iff.mp h).2.1 j hj

/-! ## Operands and tags in flight -/

/-- The operands of every instruction of the program are below A (R103, R105). -/
theorem State.Structured.operand_lt {s : State} (h : s.Structured) {j a : Nat} (hj : j < s.progLen)
    (ha : a ∈ (s.record j).instr.dst ∨ a ∈ (s.record j).instr.src1 ∨ a ∈ (s.record j).instr.src2) :
    a < s.cfg.numArch := by
  obtain ⟨i, hi, hdecode⟩ := decode_of_decodeFrom_eq_ok h.shaped.loaded hj
  rw [List.getElem?_map, State.getElem?_recs (h.lt_recs_length hj), Option.map_some, Option.some.injEq] at hi
  obtain ⟨-, -, h1, h2, hd⟩ := decode_eq_ok.mp hdecode
  have bounded : ∀ {valid field o}, decodeOperand s.cfg.numArch valid field = .ok o → a ∈ o → a < s.cfg.numArch := by
    intro valid field o ho hao
    obtain ⟨-, hlt, rfl⟩ | ⟨-, -, rfl⟩ := decodeOperand_eq_ok.mp ho
    · rwa [← Option.some.inj hao]
    · cases hao
  rw [hi] at ha
  obtain ha | ha | ha := ha
  · exact bounded hd ha
  · exact bounded h1 ha
  · exact bounded h2 ha

/-- An instruction is in flight: dispatched and not retired. -/
def State.InFlight (s : State) (i : Nat) : Prop := s.nRetired ≤ i ∧ i < s.numDispatched

theorem State.Structured.inFlight_of_not_completed {s : State} (h : s.Structured) {i : Nat}
    (hi : i < s.numDispatched) (hnot : (s.record i).completed = false) : s.InFlight i := by
  refine ⟨Nat.le_of_not_lt fun hlt => ?_, hi⟩
  have hp := h.lt_progLen_of_dispatched hi
  have hdone := (h.coherent hp).retired_completed ((h.locates hp).retired_iff.mpr hlt)
  rw [hnot] at hdone
  cases hdone

/-- The tag of a writer in flight is mapped, or is the Told of the next writer in flight. -/
theorem mapped_or_told {s : State} (h : s.Structured) (hr : s.Renamed) {i a : Nat} (hi : s.InFlight i)
    (hdst : (s.record i).instr.dst = some a) :
    (s.lastWriter a s.numDispatched = some i ∧ s.specMap[a]? = (s.record i).pd)
      ∨ ∃ e ∈ s.robEntries, (s.record e.inst).instr.dst = some a ∧ s.lastWriter a e.inst = some i
          ∧ e.oldTag = (s.record i).pd := by
  obtain ⟨hlow, hhigh⟩ := hi
  obtain hlast | ⟨m, him, hm, hdstm, hlast⟩ := State.last_or_next_writer hhigh hdst
  · have ha := h.operand_lt (h.lt_progLen_of_dispatched hhigh) (.inl hdst)
    exact .inl ⟨hlast, (hr.specMap_eq a ha).trans (State.tagBefore_of_writer hlast)⟩
  · have hmem : m ∈ s.robEntries.map RobEntry.inst := by
      rw [h.placed.rob_order, List.mem_range'_1]
      exact ⟨by omega, hm⟩
    obtain ⟨e, he, rfl⟩ := List.mem_map.mp hmem
    exact .inr ⟨e, he, hdstm, hlast, (hr.oldTag_eq e he a hdstm).trans (State.tagBefore_of_writer hlast)⟩

/-- No register is in two of the places free, mapped and Told, nor twice in one of them (R350, R351). -/
theorem State.Conserved.places_nodup {s : State} (hc : s.Conserved) :
    s.specMap.Nodup ∧ (s.robEntries.filterMap RobEntry.oldTag).Nodup
      ∧ (∀ p ∈ s.specMap, p ∉ s.robEntries.filterMap RobEntry.oldTag) ∧ ∀ p ∈ s.freeList, p ∉ s.specMap := by
  have hnodup := hc.partition.nodup_iff.mpr List.nodup_range
  rw [State.registerPlaces, List.append_assoc, List.append_assoc, List.nodup_append'] at hnodup
  obtain ⟨-, hrest, hfree⟩ := hnodup
  obtain ⟨hmap, hrest, hmapped⟩ := List.nodup_append'.mp hrest
  obtain ⟨holds, -, -⟩ := List.nodup_append'.mp hrest
  exact ⟨hmap, holds, fun p hp hold => hmapped hp (List.mem_append_left _ hold),
    fun p hp hmem => hfree hp (List.mem_append_left _ hmem)⟩

/-- Two writers in flight have different tags (R351). -/
theorem inFlight_tag_injective {s : State} (h : s.Structured) (hc : s.Conserved) (hr : s.Renamed) {i j t : Nat}
    (hi : s.InFlight i) (hj : s.InFlight j) (hit : (s.record i).pd = some t) (hjt : (s.record j).pd = some t) :
    i = j := by
  obtain ⟨hmap, holds, hdisjoint, -⟩ := hc.places_nodup
  have writes : ∀ {m}, s.InFlight m → (s.record m).pd = some t → ∃ a, (s.record m).instr.dst = some a := by
    intro m hm hpd
    rw [← Option.isSome_iff_exists, ← hc.pd_iff m hm.2, hpd]
    rfl
  have told : ∀ {e : RobEntry}, e ∈ s.robEntries → e.oldTag = some t → t ∈ s.robEntries.filterMap RobEntry.oldTag :=
    fun he hold => List.mem_filterMap.mpr ⟨_, he, hold⟩
  obtain ⟨a, ha⟩ := writes hi hit
  obtain ⟨b, hb⟩ := writes hj hjt
  obtain ⟨hlasti, hspeci⟩ | ⟨e, he, hedst, hlasti, heold⟩ := mapped_or_told h hr hi ha <;>
    obtain ⟨hlastj, hspecj⟩ | ⟨e', he', hedst', hlastj, heold'⟩ := mapped_or_told h hr hj hb
  · rw [hit] at hspeci
    rw [hjt] at hspecj
    obtain ⟨hlt, hga⟩ := List.getElem?_eq_some_iff.mp hspeci
    obtain ⟨hlt', hgb⟩ := List.getElem?_eq_some_iff.mp hspecj
    obtain rfl : a = b := (hmap.getElem_inj_iff).mp (hga.trans hgb.symm)
    exact Option.some.inj (hlasti.symm.trans hlastj)
  · exact absurd (told he' (heold'.trans hjt)) (hdisjoint t (List.mem_of_getElem? (hspeci.trans hit)))
  · exact absurd (told he (heold.trans hit)) (hdisjoint t (List.mem_of_getElem? (hspecj.trans hjt)))
  · have hee : e = e' := by
      by_contra hne
      have hpair := List.pairwise_filterMap.mp holds
      have hsymm : Std.Symm fun x y : RobEntry => ∀ p, x.oldTag = some p → ∀ q, y.oldTag = some q → p ≠ q :=
        ⟨fun x y hxy p hp q hq hpq => hxy q hq p hp hpq.symm⟩
      exact hpair.forall he he' hne t (heold.trans hit) t (heold'.trans hjt) rfl
    subst hee
    obtain rfl : a = b := Option.some.inj (hedst.symm.trans hedst')
    exact Option.some.inj (hlasti.symm.trans hlastj)

/-! ## Moves that rename nothing and complete nothing -/

/-- What renaming knows of a record. -/
def InstrRecord.renaming (r : InstrRecord) :
    Instr × Option Nat × Option Nat × Option Nat × Bool × Bool × Bool :=
  (r.instr, r.pd, r.ps1, r.ps2, r.rdy1, r.rdy2, r.completed)

/-- What renaming knows of the records fixes the tags and the completed producers of program order. -/
theorem State.renaming_congr {s t : State} (hview : ∀ m, (t.record m).renaming = (s.record m).renaming) :
    (∀ m, (t.record m).instr = (s.record m).instr) ∧ (∀ n a, t.tagBefore a n = s.tagBefore a n)
      ∧ ∀ n a, t.producerDone a n = s.producerDone a n := by
  have hinstr : ∀ m, (t.record m).instr = (s.record m).instr := fun m => congrArg Prod.fst (hview m)
  simp only [InstrRecord.renaming, Prod.mk.injEq] at hview
  refine ⟨hinstr, fun n => State.tagBefore_congr hinstr fun m _ => ?_, fun n =>
    State.producerDone_congr hinstr fun m _ => ?_⟩
  · obtain ⟨-, hpd, -⟩ := hview m
    exact hpd
  · obtain ⟨-, -, -, -, -, -, hcompleted⟩ := hview m
    exact hcompleted

theorem State.SourcesRenamed.of_frame {s t : State} {m : Nat} (h : s.SourcesRenamed m (s.record m))
    (hview : ∀ m, (t.record m).renaming = (s.record m).renaming) : t.SourcesRenamed m (t.record m) := by
  obtain ⟨-, htag, hdone⟩ := State.renaming_congr hview
  have hm := hview m
  simp only [InstrRecord.renaming, Prod.mk.injEq] at hm
  obtain ⟨hinstr, -, hps1, hps2, hrdy1, hrdy2, -⟩ := hm
  obtain ⟨h1, h2⟩ := h
  rw [State.SourcesRenamed, hinstr, hps1, hps2, hrdy1, hrdy2]
  exact ⟨⟨by simpa only [htag] using h1.tag, by simpa only [hdone] using h1.ready, h1.absent⟩,
    ⟨by simpa only [htag] using h2.tag, by simpa only [hdone] using h2.ready, h2.absent⟩⟩

/-- A change of neither the maps nor what renaming knows of the records. -/
theorem State.Renamed.of_frame {s t : State} (h : s.Renamed)
    (hview : ∀ m, (t.record m).renaming = (s.record m).renaming)
    (hmaps : t.specMap = s.specMap ∧ t.archMap = s.archMap ∧ t.specReady = s.specReady)
    (hcfg : t.cfg = s.cfg) (hlen : t.progLen = s.progLen) (hrob : t.robEntries = s.robEntries)
    (hdispatched : t.numDispatched = s.numDispatched) (hretired : t.nRetired = s.nRetired)
    (hissued : ∀ m < s.progLen, (t.record m).IssuedReady) : t.Renamed := by
  obtain ⟨hspec, harch, hready⟩ := hmaps
  obtain ⟨hinstr, htag, hdone⟩ := State.renaming_congr hview
  refine State.renamed_iff.mpr ⟨⟨?_, ?_, fun e he => ?_, ?_⟩, fun m hm => ?_, fun m hm => hissued m (hlen ▸ hm)⟩
  · simpa only [hcfg, hspec, hdispatched, htag] using h.specMap_eq
  · simpa only [hcfg, harch, hretired, htag] using h.archMap_eq
  · rw [hrob] at he
    simpa only [hinstr, htag] using h.oldTag_eq e he
  · simpa only [hcfg, hspec, hready, hdispatched, hdone] using h.specReady_eq
  · exact (h.sources (hdispatched ▸ hm)).of_frame hview

/-- A move of a stage that changes neither the maps nor what renaming knows of a record, nor `issued`. -/
theorem State.Renamed.of_modify {s t : State} (h : s.Renamed) {j : Nat} {f : InstrRecord → InstrRecord}
    (hrecs : t.recs = s.recs.modify j f) (hf : ∀ r, (f r).renaming = r.renaming ∧ (f r).issued = r.issued)
    (hmaps : t.specMap = s.specMap ∧ t.archMap = s.archMap ∧ t.specReady = s.specReady)
    (hcfg : t.cfg = s.cfg) (hlen : t.progLen = s.progLen) (hrob : t.robEntries = s.robEntries)
    (hdispatched : t.numDispatched = s.numDispatched) (hretired : t.nRetired = s.nRetired) : t.Renamed := by
  refine h.of_frame (State.record_field_of_modify InstrRecord.renaming hrecs fun r => (hf r).1) hmaps hcfg hlen
    hrob hdispatched hretired fun m hm => ?_
  have hsame : (t.record m).IssuedReady = (s.record m).IssuedReady := by
    refine State.record_field_of_modify InstrRecord.IssuedReady hrecs (fun r => ?_) m
    obtain ⟨hview, hissued⟩ := hf r
    simp only [InstrRecord.renaming, Prod.mk.injEq] at hview
    obtain ⟨hinstr, -, -, -, hrdy1, hrdy2, -⟩ := hview
    simp only [InstrRecord.IssuedReady, readyToExecute, hissued, hinstr, hrdy1, hrdy2]
  rw [hsame]
  exact h.issued_ready m hm

theorem State.Renamed.cycleStart {s : State} (h : s.Renamed) : (cycleStart s).Renamed :=
  h.of_frame (fun _ => rfl) ⟨rfl, rfl, rfl⟩ rfl rfl rfl rfl rfl h.issued_ready

theorem State.Renamed.cycleEnd {s : State} (h : s.Renamed) : (cycleEnd s).Renamed := by
  obtain ⟨cycle, status, heq⟩ := cycleEnd_eq s
  rw [heq]
  exact h.of_frame (fun _ => rfl) ⟨rfl, rfl, rfl⟩ rfl rfl rfl rfl rfl h.issued_ready

end Sys2Proof.Machine
end

section
/-!
SUPPORT. Renaming is kept by dispatch, completion and retirement, and so by every step (R267, R284, R352).
-/
namespace Sys2Proof.Machine

/-! ## Completion -/

/-- What a completion of instruction `j` leaves of every record: it is completed if it was or if it is `j`, and a
record is woken if it is in a station and `j` has a tag (R260, R262). -/
structure State.CompletesTo (s : State) (j : Nat) (t : State) : Prop where
  instr : ∀ m, (t.record m).instr = (s.record m).instr
  pd : ∀ m, (t.record m).pd = (s.record m).pd
  ps1 : ∀ m, (t.record m).ps1 = (s.record m).ps1
  ps2 : ∀ m, (t.record m).ps2 = (s.record m).ps2
  issued : ∀ m, (t.record m).issued = (s.record m).issued
  completed_self : (t.record j).completed = true
  completed_other : ∀ m ≠ j, (t.record m).completed = (s.record m).completed
  rdy1 : ∀ m, (t.record m).rdy1 = true ↔ (s.record m).rdy1 = true
    ∨ (m ∈ s.heldInstrs ∧ (s.record m).instr.src1.isSome = true
        ∧ ∃ p, (s.record j).pd = some p ∧ (s.record m).ps1 = some p)
  rdy2 : ∀ m, (t.record m).rdy2 = true ↔ (s.record m).rdy2 = true
    ∨ (m ∈ s.heldInstrs ∧ (s.record m).instr.src2.isSome = true
        ∧ ∃ p, (s.record j).pd = some p ∧ (s.record m).ps2 = some p)

theorem State.completesTo {s v : State} {j : Nat} (h : s.Structured) (hj : j < s.progLen)
    (hv : (s.broadcast (s.record j).pd).markReady (s.record j).pd = .ok v) : s.CompletesTo j (v.completeMove j) := by
  have hmove := v.completeMove_recs j
  have field : ∀ {α : Type} (g : InstrRecord → α), (∀ r, g (r.markCompleted.stamped v.cycle .complete) = g r) →
      ∀ m, g ((v.completeMove j).record m) = g (v.record m) :=
    fun g hg => State.record_field_of_modify g hmove hg
  obtain ⟨hpd, rfl⟩ | ⟨p, hpd, -, rfl⟩ := markReady_broadcast_eq_ok.mp hv
  · have hself := State.record_self_of_modify hmove (h.lt_recs_length hj)
    refine ⟨field _ fun _ => rfl, field _ fun _ => rfl, field _ fun _ => rfl, field _ fun _ => rfl,
      field _ fun _ => rfl, by rw [hself]; rfl, fun m hm => by rw [State.record_other_of_modify hmove hm],
      fun m => ?_, fun m => ?_⟩
    · rw [field InstrRecord.rdy1 fun _ => rfl]
      simp [hpd]
    · rw [field InstrRecord.rdy2 fun _ => rfl]
      simp [hpd]
  · have wake : ∀ {α : Type} (g : InstrRecord → α), (∀ r : InstrRecord, g (r.wake p) = g r) →
        ∀ m, g ((s.signalled p).record m) = g (s.record m) := fun g hg => State.signalled_field g s p hg
    have hself := State.record_self_of_modify hmove ((h.signalled p).lt_recs_length hj)
    have heard : ∀ m, (s.signalled p).record m
        = if m ∈ s.heldInstrs then (s.record m).wake p else s.record m := by
      intro m
      by_cases hm : m < s.recs.length
      · exact s.signalled_record p hm
      · have hnot : m ∉ s.heldInstrs := fun hmem => hm (h.lt_recs_length (h.of_mem_heldInstrs hmem).1)
        have hlen : (s.signalled p).recs.length = s.recs.length := wakeAll_length ..
        rw [if_neg hnot, State.record, State.record, List.getD_eq_default _ _ (by omega),
          List.getD_eq_default _ _ (by omega)]
    refine ⟨fun m => (field InstrRecord.instr (fun _ => rfl) m).trans (wake _ (fun _ => rfl) m),
      fun m => (field InstrRecord.pd (fun _ => rfl) m).trans (wake _ (fun _ => rfl) m),
      fun m => (field InstrRecord.ps1 (fun _ => rfl) m).trans (wake _ (fun _ => rfl) m),
      fun m => (field InstrRecord.ps2 (fun _ => rfl) m).trans (wake _ (fun _ => rfl) m),
      fun m => (field InstrRecord.issued (fun _ => rfl) m).trans (wake _ (fun _ => rfl) m),
      by rw [hself]; rfl, fun m hm => ?_, fun m => ?_, fun m => ?_⟩
    · rw [State.record_other_of_modify hmove hm]
      exact wake InstrRecord.completed (fun _ => rfl) m
    · rw [field InstrRecord.rdy1 fun _ => rfl, heard]
      by_cases hm : m ∈ s.heldInstrs <;> simp [hm, hpd]
    · rw [field InstrRecord.rdy2 fun _ => rfl, heard]
      by_cases hm : m ∈ s.heldInstrs <;> simp [hm, hpd]

/-- Which producers have completed after `j` has. -/
theorem State.CompletesTo.producerDone {s t : State} {j : Nat} (ht : s.CompletesTo j t) (a n : Nat) :
    t.producerDone a n = true ↔ s.producerDone a n = true ∨ s.lastWriter a n = some j := by
  have hw : t.lastWriter a n = s.lastWriter a n := State.lastWriter_congr ht.instr a n
  cases hlast : s.lastWriter a n with
  | none =>
    rw [hlast] at hw
    simp [State.producerDone_of_no_writer hw, State.producerDone_of_no_writer hlast]
  | some i =>
    rw [hlast] at hw
    rw [State.producerDone_of_writer hw, State.producerDone_of_writer hlast]
    by_cases hij : i = j
    · subst hij
      simp [ht.completed_self]
    · simp [ht.completed_other i hij, hij]

/-- A mapping to the tag of an instruction that is about to complete is that of this instruction, unless the value
of the register exists already. -/
theorem writer_of_tag {s : State} (h : s.Structured) (hc : s.Conserved) (hr : s.Renamed) {j a n p : Nat}
    (hj : s.InFlight j) (hpd : (s.record j).pd = some p) (hn : n ≤ s.numDispatched)
    (htag : s.tagBefore a n = some p) (hnot : s.producerDone a n = false) : s.lastWriter a n = some j := by
  cases hlast : s.lastWriter a n with
  | none =>
    rw [State.producerDone_of_no_writer hlast] at hnot
    cases hnot
  | some i =>
    rw [State.producerDone_of_writer hlast] at hnot
    rw [State.tagBefore_of_writer hlast] at htag
    have hi := h.inFlight_of_not_completed ((State.lastWriter_spec hlast).1.trans_le hn) hnot
    rw [inFlight_tag_injective h hc hr hi hj htag hpd]

/-- The last writer of a register has a tag (R206). -/
theorem tag_of_writer {s : State} (hc : s.Conserved) {j a n : Nat} (hn : n ≤ s.numDispatched)
    (hlast : s.lastWriter a n = some j) : ∃ p, (s.record j).pd = some p := by
  obtain ⟨hlt, hdst⟩ := State.lastWriter_spec hlast
  rw [← Option.isSome_iff_exists, hc.pd_iff j (hlt.trans_le hn), hdst]
  rfl

/-- No wakeup is lost and none is early (R267): after the completion of `j`, a source of instruction `m` is ready
exactly when its producer has completed. -/
theorem State.SourceRenamed.complete {s t : State} (h : s.Structured) (hc : s.Conserved) (hr : s.Renamed) {j m : Nat}
    (hj : s.InFlight j) (ht : s.CompletesTo j t)
    (hm : m < s.numDispatched) {o : Operand} {p : Option Nat} {b b' : Bool} (hs : s.SourceRenamed m o p b)
    (hissued : (s.record m).issued = true → o = none ∨ b = true)
    (hb : b' = true ↔ b = true ∨ (m ∈ s.heldInstrs ∧ o.isSome = true ∧ ∃ q, (s.record j).pd = some q ∧ p = some q)) :
    t.SourceRenamed m o p b' := by
  have htag : ∀ a, t.tagBefore a m = s.tagBefore a m :=
    State.tagBefore_congr ht.instr fun i _ => ht.pd i
  refine ⟨fun a ha => (hs.tag a ha).trans (htag a).symm, fun a ha => ?_, fun ho => ⟨(hs.absent ho).1, ?_⟩⟩
  · rw [Bool.eq_iff_iff, hb, ht.producerDone, ← hs.ready a ha]
    refine or_congr_right' fun hbnot => ⟨?_, fun hlast => ?_⟩
    · rintro ⟨-, -, q, hpd, hp⟩
      refine writer_of_tag h hc hr hj hpd hm.le ((hs.tag a ha).symm.trans hp) ?_
      rw [← hs.ready a ha]
      exact Bool.eq_false_iff.mpr hbnot
    · obtain ⟨q, hpd⟩ := tag_of_writer hc hm.le hlast
      have hp : p = some q := (hs.tag a ha).trans ((State.tagBefore_of_writer hlast).trans hpd)
      have hmlt := h.lt_progLen_of_dispatched hm
      have hnotissued : (s.record m).issued = false := by
        rw [Bool.eq_false_iff]
        intro hi
        obtain ho | hb := hissued hi
        · rw [ho] at ha
          cases ha
        · exact hbnot hb
      have hnotexecuted : (s.record m).executed = false := by
        rw [Bool.eq_false_iff]
        intro hx
        rw [(h.coherent hmlt).executed_issued hx] at hnotissued
        cases hnotissued
      have hrenamed := (h.locates hmlt).renamed_iff.mpr hm
      exact ⟨h.mem_heldInstrs hmlt hrenamed hnotexecuted, Option.isSome_iff_exists.mpr ⟨a, ha⟩, q, hpd, hp⟩
  · rw [Bool.eq_false_iff, Ne, hb]
    simp [ho, (hs.absent ho).2]

/-- The bit that a completion sets is that of its own tag (R263). -/
theorem State.Mapped.complete {s v : State} (h : s.Structured) (hc : s.Conserved) (hr : s.Renamed) {j : Nat}
    (hj : s.InFlight j) (hv : (s.broadcast (s.record j).pd).markReady (s.record j).pd = .ok v)
    (ht : s.CompletesTo j (v.completeMove j)) : (v.completeMove j).Mapped := by
  have hmapped := hr.mapped
  have htag : ∀ n a, (v.completeMove j).tagBefore a n = s.tagBefore a n := fun n =>
    State.tagBefore_congr ht.instr fun i _ => ht.pd i
  have hframe : v.cfg = s.cfg ∧ v.specMap = s.specMap ∧ v.archMap = s.archMap
      ∧ (v.completeMove j).robEntries = s.robEntries ∧ v.numDispatched = s.numDispatched
      ∧ v.nRetired = s.nRetired := by
    obtain ⟨-, rfl⟩ | ⟨p, -, -, rfl⟩ := markReady_broadcast_eq_ok.mp hv <;> exact ⟨rfl, rfl, rfl, rfl, rfl, rfl⟩
  obtain ⟨hcfg, hspec, harch, hrob, hdispatched, hretired⟩ := hframe
  refine ⟨fun a ha => ?_, fun a ha => ?_, fun e he a ha => ?_, fun a ha q hq => ?_⟩
  · rw [htag]
    exact (congrArg (·[a]?) hspec).trans (hdispatched ▸ hmapped.specMap_eq a (hcfg ▸ ha))
  · rw [htag]
    exact (congrArg (·[a]?) harch).trans (hretired ▸ hmapped.archMap_eq a (hcfg ▸ ha))
  · rw [hrob] at he
    rw [ht.instr] at ha
    rw [htag]
    exact hmapped.oldTag_eq e he a ha
  · have ha' : a < s.cfg.numArch := hcfg ▸ ha
    have hq' : s.specMap[a]? = some q := (congrArg (·[a]?) hspec).symm.trans hq
    have hold := hmapped.specReady_eq a ha' q hq'
    have hmap := (hmapped.specMap_eq a ha').symm.trans hq'
    have hdone : (v.completeMove j).producerDone a s.numDispatched = true
        ↔ s.producerDone a s.numDispatched = true ∨ s.lastWriter a s.numDispatched = some j := ht.producerDone a _
    show v.specReady[q]? = some ((v.completeMove j).producerDone a v.numDispatched)
    rw [hdispatched]
    by_cases hbit : (s.record j).pd = some q
    · obtain ⟨hnone, -⟩ | ⟨p, hp, hlt, rfl⟩ := markReady_broadcast_eq_ok.mp hv
      · rw [hnone] at hbit
        cases hbit
      · obtain rfl : p = q := Option.some.inj (hp.symm.trans hbit)
        have htrue : s.producerDone a s.numDispatched = true ∨ s.lastWriter a s.numDispatched = some j := by
          by_cases hnot : s.producerDone a s.numDispatched = true
          · exact .inl hnot
          · exact .inr (writer_of_tag h hc hr hj hbit le_rfl hmap (Bool.eq_false_iff.mpr hnot))
        rw [hdone.mpr htrue]
        exact List.getElem?_set_self hlt
    · have hnotlast : s.lastWriter a s.numDispatched ≠ some j := fun hlast =>
        hbit ((State.tagBefore_of_writer hlast).symm.trans hmap)
      have hsame : (v.completeMove j).producerDone a s.numDispatched = s.producerDone a s.numDispatched := by
        rw [Bool.eq_iff_iff, hdone]
        exact or_iff_left hnotlast
      have hready : v.specReady[q]? = s.specReady[q]? := by
        obtain ⟨-, rfl⟩ | ⟨p, hp, -, rfl⟩ := markReady_broadcast_eq_ok.mp hv
        · rfl
        · exact List.getElem?_set_ne fun hpq => hbit (hp.trans (congrArg some hpq))
      rw [hsame, hready, hold]

theorem State.Renamed.complete {s v : State} (h : s.Structured) (hc : s.Conserved) (hr : s.Renamed) {j : Nat}
    (hmem : j ∈ s.cq) (hv : (s.broadcast (s.record j).pd).markReady (s.record j).pd = .ok v) :
    (v.completeMove j).Renamed := by
  have hjlt := h.placed.cq_lt j hmem
  obtain ⟨hexecuted, hnot⟩ := (h.locates hjlt).cq_iff.mp hmem
  have hrenamed := (h.coherent hjlt).issued_renamed ((h.coherent hjlt).executed_issued hexecuted)
  have hj := h.inFlight_of_not_completed ((h.locates hjlt).renamed_iff.mp hrenamed) hnot
  have ht := State.completesTo h hjlt hv
  have hframe : v.numDispatched = s.numDispatched ∧ v.progLen = s.progLen := by
    obtain ⟨-, rfl⟩ | ⟨p, -, -, rfl⟩ := markReady_broadcast_eq_ok.mp hv <;> exact ⟨rfl, rfl⟩
  obtain ⟨hdispatched, hlen⟩ := hframe
  refine State.renamed_iff.mpr ⟨State.Mapped.complete h hc hr hj hv ht, fun m hm => ?_, fun m hm hissued => ?_⟩
  · have hm' : m < s.numDispatched := hdispatched ▸ hm
    obtain ⟨h1, h2⟩ := hr.sources hm'
    have hready : (s.record m).issued = true → _ := fun hi =>
      readyToExecute_eq_true.mp (hr.issued_ready m (h.lt_progLen_of_dispatched hm') hi)
    refine ⟨?_, ?_⟩
    · rw [ht.instr, ht.ps1]
      exact h1.complete h hc hr hj ht hm' (fun hi => (hready hi).1) (ht.rdy1 m)
    · rw [ht.instr, ht.ps2]
      exact h2.complete h hc hr hj ht hm' (fun hi => (hready hi).2) (ht.rdy2 m)
  · have hm' : m < s.progLen := hlen ▸ hm
    rw [ht.issued] at hissued
    obtain ⟨h1, h2⟩ := readyToExecute_eq_true.mp (hr.issued_ready m hm' hissued)
    rw [ht.instr]
    exact readyToExecute_eq_true.mpr ⟨h1.imp_right fun hb => (ht.rdy1 m).mpr (.inl hb),
      h2.imp_right fun hb => (ht.rdy2 m).mpr (.inl hb)⟩

/-! ## Retirement -/

/-- Retirement commits T of the oldest instruction as the mapping of its destination (R284). -/
theorem State.Renamed.retire {s v : State} (h : s.Structured) (hc : s.Conserved) (hr : s.Renamed) {e : RobEntry}
    (hcount : s.robCount ≠ 0) (he : s.rob[s.robHead]? = some e)
    (hv : s.commit (s.record e.inst).instr.dst e = .ok v) : (v.retireMove e.inst).Renamed := by
  have hcons := State.robEntries_eq_cons_retireMove e.inst h.shaped.robHead_lt hcount he
  have hinst := h.head_inst hcount he
  have hnew : e.newTag = (s.record e.inst).pd := hc.newTag_eq e (by simp [hcons])
  have hframe : v.cfg = s.cfg ∧ v.recs = s.recs ∧ v.specMap = s.specMap ∧ v.specReady = s.specReady
      ∧ v.progLen = s.progLen ∧ v.nRetired = s.nRetired ∧ v.robCount = s.robCount
      ∧ (v.retireMove e.inst).robEntries = (s.retireMove e.inst).robEntries := by
    obtain ⟨-, rfl⟩ | ⟨a, p, old, -, -, -, -, rfl⟩ := State.commit_eq_ok.mp hv <;>
      exact ⟨rfl, rfl, rfl, rfl, rfl, rfl, rfl, rfl⟩
  obtain ⟨hcfg, hrecs, hspec, hready, hlen, hretired, hrobCount, hrob⟩ := hframe
  have hmove : (v.retireMove e.inst).recs = s.recs.modify e.inst fun r => r.markRetired.stamped v.cycle .retire := by
    rw [State.retireMove_recs, hrecs]
  have hdispatched : (v.retireMove e.inst).numDispatched = s.numDispatched := by
    show v.nRetired + 1 + (v.robCount - 1) = s.nRetired + s.robCount
    omega
  have hview := State.record_field_of_modify InstrRecord.renaming hmove fun _ => rfl
  obtain ⟨hinstr, htag, hdone⟩ := State.renaming_congr hview
  have hmapped := hr.mapped
  refine State.renamed_iff.mpr ⟨⟨fun a ha => ?_, fun a ha => ?_, fun e' he' => ?_, fun a ha => ?_⟩, fun m hm => ?_,
    fun m hm => ?_⟩
  · rw [htag, hdispatched]
    exact (congrArg (·[a]?) hspec).trans (hmapped.specMap_eq a (hcfg ▸ ha))
  · have ha' : a < s.cfg.numArch := hcfg ▸ ha
    show v.archMap[a]? = (v.retireMove e.inst).tagBefore a (v.nRetired + 1)
    rw [htag, hretired, State.tagBefore_succ, ← hinst, ← hnew, hinst, ← hmapped.archMap_eq a ha', ← hinst]
    obtain ⟨hnone, rfl⟩ | ⟨b, p, old, hdst, hp, -, hb, rfl⟩ := State.commit_eq_ok.mp hv
    · simp [hnone]
    · rw [hdst, hp]
      by_cases hba : b = a
      · subst hba
        simp [hb]
      · simp [hba]
  · rw [hrob] at he'
    rw [hinstr]
    intro a ha
    rw [htag]
    exact hmapped.oldTag_eq e' (by simp [hcons, he']) a ha
  · rw [hdispatched, hdone]
    show ∀ p ∈ v.specMap[a]?, v.specReady[p]? = _
    rw [hspec, hready]
    exact hmapped.specReady_eq a (hcfg ▸ ha)
  · rw [hdispatched] at hm
    exact (hr.sources hm).of_frame hview
  · have hsame : ((v.retireMove e.inst).record m).IssuedReady = (s.record m).IssuedReady :=
      State.record_field_of_modify InstrRecord.IssuedReady hmove (fun _ => rfl) m
    rw [hsame]
    exact hr.issued_ready m (hlen ▸ hm)

/-! ## Dispatch -/

/-- What dispatch of instruction `j` leaves of the records: `j` has the snapshots of its sources and its tag, and no
other record changes (R205, R206). -/
structure State.DispatchesTo (s : State) (j : Nat) (src1 src2 : Snapshot) (newTag : Option Nat) (t : State) : Prop where
  numDispatched : t.numDispatched = s.numDispatched + 1
  instr : ∀ m, (t.record m).instr = (s.record m).instr
  other : ∀ m ≠ j, t.record m = s.record m
  pd : (t.record j).pd = newTag
  ps1 : (t.record j).ps1 = src1.1
  rdy1 : (t.record j).rdy1 = src1.2
  ps2 : (t.record j).ps2 = src2.1
  rdy2 : (t.record j).rdy2 = src2.2
  issued : (t.record j).issued = false
  completed : (t.record j).completed = false

theorem State.dispatchesTo {s : State} (h : s.Structured) {j k : Nat} (hd : s.Dispatchable j k) {d : Operand}
    {n : Renaming} (hn : s.renameDestination d = .ok n) (src1 src2 : Snapshot) :
    s.DispatchesTo j src1 src2 n.newTag (n.state.dispatchMove j k src1 src2 n.newTag n.oldTag) := by
  obtain ⟨hrecs, -, -, -, hdispatched⟩ := renameDestination_frame hn
  have hj : j < s.progLen := hd.fetched.trans_le h.placed.fetchPtr_le
  have hmove : (n.state.dispatchMove j k src1 src2 n.newTag n.oldTag).recs
      = s.recs.modify j fun r => (r.dispatched src1 src2 n.newTag k).stamped n.state.cycle .dispatch := by
    rw [State.dispatchMove_recs, hrecs]
  have hself := State.record_self_of_modify hmove (h.lt_recs_length hj)
  have hrenamed : (s.record j).renamed = false := by
    rw [Bool.eq_false_iff, Ne, (h.locates hj).renamed_iff, hd.next]
    exact Nat.lt_irrefl _
  obtain ⟨hissued, -, hcompleted, -⟩ := (h.coherent hj).of_not_renamed hrenamed
  refine ⟨congrArg (· + 1) hdispatched, State.record_field_of_modify InstrRecord.instr hmove fun _ => rfl,
    fun m hm => State.record_other_of_modify hmove hm, ?_, ?_, ?_, ?_, ?_, ?_, ?_⟩
  all_goals rw [hself]
  case refine_6 => exact hissued
  case refine_7 => exact hcompleted
  all_goals rfl

/-- Up to the dispatched instruction, program order says what it said. -/
theorem State.DispatchesTo.below {s t : State} {j : Nat} {src1 src2 : Snapshot} {newTag : Option Nat}
    (ht : s.DispatchesTo j src1 src2 newTag t) {n : Nat} (hn : n ≤ j) (a : Nat) :
    t.tagBefore a n = s.tagBefore a n ∧ t.producerDone a n = s.producerDone a n := by
  have hsame : ∀ m < n, t.record m = s.record m := fun m hm => ht.other m (by omega)
  exact ⟨State.tagBefore_congr ht.instr (fun m hm => by rw [hsame m hm]) a,
    State.producerDone_congr ht.instr (fun m hm => by rw [hsame m hm]) a⟩

/-- The snapshot of a source is what program order says of it (R205). -/
theorem State.Renamed.snapshot {s t : State} (h : s.Structured) (hr : s.Renamed) {o : Operand} {c : Snapshot}
    (hc : s.renameSource o = .ok c)
    (hbelow : ∀ a, t.tagBefore a s.numDispatched = s.tagBefore a s.numDispatched
      ∧ t.producerDone a s.numDispatched = s.producerDone a s.numDispatched) :
    t.SourceRenamed s.numDispatched o c.1 c.2 := by
  obtain ⟨rfl, rfl⟩ | ⟨a, p, b, rfl, hp, hb, rfl⟩ := State.renameSource_eq_ok.mp hc
  · exact ⟨fun a ha => (by cases ha), fun a ha => (by cases ha), fun _ => ⟨rfl, rfl⟩⟩
  · have ha : a < s.cfg.numArch := by
      rw [← h.shaped.specMap_length]
      exact (List.getElem?_eq_some_iff.mp hp).1
    have hready := hr.specReady_eq a ha p hp
    rw [hb, Option.some.injEq] at hready
    have htag := hr.specMap_eq a ha
    rw [hp] at htag
    refine ⟨fun a' ha' => ?_, fun a' ha' => ?_, fun hnone => by cases hnone⟩ <;>
      obtain rfl : a = a' := Option.some.inj ha'
    · exact htag.trans (hbelow a).1.symm
    · exact hready.trans (hbelow a).2.symm

/-- The map and the readiness bits after the destination is renamed (R206). -/
theorem State.Mapped.dispatch {s t : State} (h : s.Structured) (hc : s.Conserved) (hr : s.Renamed) {j : Nat}
    (hj : j = s.numDispatched) {src1 src2 : Snapshot} {n : Renaming}
    (hn : s.renameDestination (s.record j).instr.dst = .ok n) (ht : s.DispatchesTo j src1 src2 n.newTag t)
    (hcfg : t.cfg = s.cfg) (hspec : t.specMap = n.state.specMap) (hready : t.specReady = n.state.specReady)
    (harch : t.archMap = s.archMap) (hretired : t.nRetired = s.nRetired)
    (hrob : t.robEntries = s.robEntries ++ [⟨j, n.newTag, n.oldTag⟩]) : t.Mapped := by
  subst hj
  have hmapped := hr.mapped
  have htag : ∀ a, t.tagBefore a (s.numDispatched + 1) = if (s.record s.numDispatched).instr.dst = some a
      then n.newTag else s.tagBefore a s.numDispatched := fun a => by
    rw [State.tagBefore_succ, ht.instr, ht.pd, (ht.below le_rfl a).1]
  have hdone : ∀ a, t.producerDone a (s.numDispatched + 1) = if (s.record s.numDispatched).instr.dst = some a
      then false else s.producerDone a s.numDispatched := fun a => by
    rw [State.producerDone_succ, ht.instr, ht.completed, (ht.below le_rfl a).2]
  have hfree := hc.places_nodup.2.2.2
  refine ⟨fun a ha => ?_, fun a ha => ?_, fun e he a ha => ?_, fun a ha p hp => ?_⟩
  · have hold := hmapped.specMap_eq a (hcfg ▸ ha)
    rw [ht.numDispatched, htag, hspec, ← hold]
    obtain ⟨hd, rfl⟩ | ⟨b, p, rest, old, hd, -, hb, -, rfl⟩ := State.renameDestination_eq_ok.mp hn
    · simp [hd]
    · have hlt := (List.getElem?_eq_some_iff.mp hb).1
      rw [hd]
      by_cases hba : b = a
      · subst hba
        simp [hlt]
      · simp [hba]
  · have hle : s.nRetired ≤ s.numDispatched := Nat.le_add_right _ _
    rw [hretired, (ht.below hle a).1, harch]
    exact hmapped.archMap_eq a (hcfg ▸ ha)
  · rw [ht.instr] at ha
    rw [hrob, List.mem_append, List.mem_singleton] at he
    obtain he | rfl := he
    · rw [(ht.below (h.inst_mem_rob he).2.le a).1]
      exact hmapped.oldTag_eq e he a ha
    · obtain ⟨hd, rfl⟩ | ⟨b, p, rest, old, hd, -, hb, -, rfl⟩ := State.renameDestination_eq_ok.mp hn
      · rw [hd] at ha
        cases ha
      · obtain rfl : b = a := Option.some.inj (hd.symm.trans ha)
        have hlt : b < s.cfg.numArch := by
          rw [← h.shaped.specMap_length]
          exact (List.getElem?_eq_some_iff.mp hb).1
        rw [(ht.below le_rfl b).1, ← hmapped.specMap_eq b hlt]
        exact hb.symm
  · rw [hspec] at hp
    rw [ht.numDispatched, hdone, hready]
    obtain ⟨hd, rfl⟩ | ⟨b, q, rest, old, hd, hq, hb, hlt, rfl⟩ := State.renameDestination_eq_ok.mp hn
    · rw [hd, if_neg (by simp)]
      exact hmapped.specReady_eq a (hcfg ▸ ha) p hp
    · by_cases hba : b = a
      · subst hba
        have hpq : q = p := by
          have hlt' := (List.getElem?_eq_some_iff.mp hb).1
          simpa [hlt'] using hp
        subst hpq
        simp [hd, hlt]
      · have hp' : s.specMap[a]? = some p := by simpa [List.getElem?_set_ne hba] using hp
        have hqp : q ≠ p := by
          rintro rfl
          exact hfree q (by simp [hq]) (List.mem_of_getElem? hp')
        have hne : (s.record s.numDispatched).instr.dst ≠ some a := by
          rw [hd]
          exact fun heq => hba (Option.some.inj heq)
        rw [if_neg hne, ← hmapped.specReady_eq a (hcfg ▸ ha) p hp']
        exact List.getElem?_set_ne hqp

theorem State.Renamed.dispatch {s : State} (h : s.Structured) (hc : s.Conserved) (hr : s.Renamed) {j k : Nat}
    (hd : s.Dispatchable j k) {src1 src2 : Snapshot} {n : Renaming}
    (h1 : s.renameSource (s.record j).instr.src1 = .ok src1)
    (h2 : s.renameSource (s.record j).instr.src2 = .ok src2)
    (hn : s.renameDestination (s.record j).instr.dst = .ok n) :
    (n.state.dispatchMove j k src1 src2 n.newTag n.oldTag).Renamed := by
  have ht := State.dispatchesTo h hd hn src1 src2
  have hj := hd.next
  have hentries := State.robEntries_dispatchMove j k src1 src2 n.newTag n.oldTag
    (h.renameDestination hn).shaped.rob_length (hd.renameDestination hn).entry
  have hframe : n.state.cfg = s.cfg ∧ n.state.archMap = s.archMap ∧ n.state.nRetired = s.nRetired
      ∧ n.state.progLen = s.progLen ∧ n.state.robEntries = s.robEntries := by
    obtain ⟨-, rfl⟩ | ⟨a, t, rest, old, -, -, -, -, rfl⟩ := State.renameDestination_eq_ok.mp hn <;>
      exact ⟨rfl, rfl, rfl, rfl, rfl⟩
  obtain ⟨hcfg, harch, hretired, hlen, hrob⟩ := hframe
  refine State.renamed_iff.mpr ⟨State.Mapped.dispatch h hc hr hj hn ht hcfg rfl rfl harch hretired
    (by rw [hentries, hrob]), fun m hm => ?_, fun m hm hissued => ?_⟩
  · rw [ht.numDispatched] at hm
    by_cases hmj : m = j
    · subst hmj
      rw [State.SourcesRenamed, ht.instr, ht.ps1, ht.ps2, ht.rdy1, ht.rdy2]
      subst hj
      exact ⟨State.Renamed.snapshot h hr h1 (ht.below le_rfl), State.Renamed.snapshot h hr h2 (ht.below le_rfl)⟩
    · have hlt : m < s.numDispatched := by omega
      have hbelow := ht.below (show m ≤ j by omega)
      obtain ⟨s1, s2⟩ := hr.sources hlt
      rw [ht.other m hmj]
      exact ⟨⟨fun a ha => (s1.tag a ha).trans (hbelow a).1.symm, fun a ha => (s1.ready a ha).trans (hbelow a).2.symm,
          s1.absent⟩,
        ⟨fun a ha => (s2.tag a ha).trans (hbelow a).1.symm, fun a ha => (s2.ready a ha).trans (hbelow a).2.symm,
          s2.absent⟩⟩
  · by_cases hmj : m = j
    · subst hmj
      rw [ht.issued] at hissued
      cases hissued
    · rw [ht.other m hmj] at hissued ⊢
      exact hr.issued_ready m (hlen ▸ hm) hissued

/-! ## Issue -/

theorem State.Renamed.issueMove {s : State} (h : s.Renamed) {j : Nat}
    (hready : readyToExecute (s.record j).instr.src1 (s.record j).instr.src2 (s.record j) = true) :
    (s.issueMove j).Renamed := by
  have hmove := s.issueMove_recs j
  refine h.of_frame (State.record_field_of_modify InstrRecord.renaming hmove fun _ => rfl) ⟨rfl, rfl, rfl⟩ rfl rfl rfl
    rfl rfl fun m hm => ?_
  by_cases hmj : m = j
  · subst hmj
    intro _
    have hsame := State.record_field_of_modify (fun r => readyToExecute r.instr.src1 r.instr.src2 r) hmove
      (fun _ => rfl) m
    exact hsame.trans hready
  · rw [State.record_other_of_modify hmove hmj]
    exact h.issued_ready m hm

/-! ## The whole step -/

/-- A structured state with conserved registers, renamed as program order says. -/
def State.InProgramOrder (s : State) : Prop := s.Sound ∧ s.Renamed

theorem inProgramOrder_keptByRetire : KeptByRetire State.InProgramOrder := by
  rintro s e r v ⟨hsound, hr⟩ hcount he hrec hdone hv
  refine ⟨sound_keptByRetire s e r v hsound hcount he hrec hdone hv, ?_⟩
  rw [← State.record_eq_of_getElem? hrec] at hv
  exact hr.retire hsound.1 hsound.2 hcount he hv

theorem inProgramOrder_keptByComplete : KeptByComplete State.InProgramOrder := by
  rintro s j r v ⟨hsound, hr⟩ hj hrec hdue hv
  refine ⟨sound_keptByComplete s j r v hsound hj hrec hdue hv, ?_⟩
  rw [← State.record_eq_of_getElem? hrec] at hv
  exact hr.complete hsound.1 hsound.2 hj hv

theorem inProgramOrder_keptAfterComplete : KeptAfterComplete State.InProgramOrder where
  deselect _ h := by rwa [State.deselect_of_idle h.1.1.shaped.idle]
  execute s j rest r k type h hxq hr hroom hk htype :=
    ⟨sound_keptAfterComplete.execute s j rest r k type h.1 hxq hr hroom hk htype,
      h.2.of_modify (s.executeMove_recs j k type) (fun _ => ⟨rfl, rfl⟩) ⟨rfl, rfl, rfl⟩ rfl rfl rfl rfl rfl⟩
  issue s k st j r h hst hheld hr hroom hready hissued :=
    ⟨sound_keptAfterComplete.issue s k st j r h.1 hst hheld hr hroom hready hissued,
      h.2.issueMove (by rwa [State.record_eq_of_getElem? hr])⟩
  dispatch s j rest r k src1 src2 n h hdq hr hk h1 h2 hn := by
    refine ⟨sound_keptAfterComplete.dispatch s j rest r k src1 src2 n h.1 hdq hr hk h1 h2 hn, ?_⟩
    have hd := h.1.1.dispatchable hdq hr hk
    rw [← State.record_eq_of_getElem? hr] at h1 h2 hn
    exact h.2.dispatch h.1.1 h.1.2 hd h1 h2 hn
  decode s j rest h hfq hroom :=
    ⟨sound_keptAfterComplete.decode s j rest h.1 hfq hroom,
      h.2.of_modify (s.decodeMove_recs j) (fun _ => ⟨rfl, rfl⟩) ⟨rfl, rfl, rfl⟩ rfl rfl rfl rfl rfl⟩
  fetch s h hlt hroom :=
    ⟨sound_keptAfterComplete.fetch s h.1 hlt hroom,
      h.2.of_modify s.fetchMove_recs (fun _ => ⟨rfl, rfl⟩) ⟨rfl, rfl, rfl⟩ rfl rfl rfl rfl rfl⟩

/-- At reset both maps are the identity and nothing has been dispatched (R330). -/
theorem ofReset_renamed (c : Config) (n : Nat) (prog : Memory) (is : List Instr) (hlegal : c.legal = true) :
    (State.ofReset c n prog is).Renamed := by
  have hle : c.numArch ≤ c.numPhys := by
    simp only [Config.legal, Bool.and_eq_true, decide_eq_true_eq] at hlegal
    omega
  have hnone : (State.ofReset c n prog is).numDispatched = 0 := rfl
  refine State.renamed_iff.mpr ⟨⟨fun a ha => ?_, fun a ha => ?_, ?_, fun a ha p hp => ?_⟩, ?_, fun j _ => ?_⟩
  · rw [State.ofReset_cfg] at ha
    rw [hnone, State.ofReset_specMap, List.getElem?_range ha]
    rfl
  · rw [State.ofReset_cfg] at ha
    rw [State.ofReset_nRetired, State.ofReset_archMap, List.getElem?_range ha]
    rfl
  · simp [State.robEntries]
  · rw [State.ofReset_cfg] at ha
    rw [State.ofReset_specMap, List.getElem?_range ha, Option.mem_some_iff] at hp
    subst hp
    rw [hnone, State.ofReset_specReady, readyAtReset, List.getElem?_map, List.getElem?_range (ha.trans_le hle)]
    exact congrArg some (decide_eq_true ha)
  · intro j hj
    rw [hnone] at hj
    omega
  · obtain ⟨i, hi⟩ := State.record_ofReset_fresh c n prog is j
    rw [hi]
    intro hissued
    cases hissued

theorem State.InProgramOrder.heldInReset {s : State} (h : s.InProgramOrder) : s.heldInReset.InProgramOrder := by
  obtain ⟨hsound, -⟩ := h
  obtain ⟨hlegal, -⟩ := State.admission_eq_none.mp hsound.1.shaped.admitted
  refine ⟨hsound.heldInReset, ?_⟩
  have hreset := ofReset_renamed s.cfg s.progLen s.prog (s.recs.map InstrRecord.instr) hlegal
  rw [State.heldInReset_eq hsound.1.shaped.loaded]
  exact hreset.of_frame (fun _ => rfl) ⟨rfl, rfl, rfl⟩ rfl rfl rfl rfl rfl hreset.issued_ready

/-- Settles O48: dispatch reads the maps of program order and extends them, a completion wakes exactly the waiting
consumers of its instruction, and retirement commits in order. -/
theorem stepKeepsRenaming : Obligations.StepKeepsRenaming := fun _ _ hs hc hr h =>
  (step_keeps State.InProgramOrder (fun _ => State.InProgramOrder.heldInReset)
    (fun _ h => ⟨⟨h.1.1.cycleStart, h.1.2.cycleStart⟩, h.2.cycleStart⟩) inProgramOrder_keptByRetire
    inProgramOrder_keptByComplete inProgramOrder_keptAfterComplete (fun _ h => h.1.1.placed.cq_nodup)
    (fun _ h => ⟨⟨h.1.1.cycleEnd, h.1.2.cycleEnd⟩, h.2.cycleEnd⟩) ⟨⟨hs, hc⟩, hr⟩ h).2

end Sys2Proof.Machine
end

section
/-!
SUPPORT. One passage through a stage: the whole next state of completion and retirement, and which fields each
stage writes at all (R34 to R47, R260 to R264, R282 to R284).
-/
namespace Sys2Proof.Machine

/-! ## Completion and retirement, the whole next state -/

/-- An instruction at its deadline completes (R260, R261). -/
theorem completeStage_of_due {s v : State} {j : Nat} {r : InstrRecord} (hr : s.recs[j]? = some r)
    (hdue : r.ts.execute + r.lat ≤ s.cycle) (hv : (s.broadcast r.pd).markReady r.pd = .ok v) :
    completeStage j s = .next (v.completeMove j) := by
  simp only [completeStage, hr, if_pos hdue, hv]
  rfl

/-- Settles O22: the broadcast, the readiness bit and the move of complete, one after another. -/
theorem completeWithDestination : Obligations.CompleteWithDestination := by
  intro i s j t r hactive hr hdue hpd ht
  have hv := markReady_broadcast_eq_ok.mpr (.inr ⟨t, hpd, ht, rfl⟩)
  rw [exec_complete i hactive, completeStage_of_due hr hdue hv, State.completeMove, State.advanced,
    State.updateRecord, List.modify_modify_eq]
  rfl

/-- A completed instruction retires with the entry at the ROB head (R280 to R282). -/
theorem retireStage_of_completed {s v : State} {d : Operand} {j : Nat} {r : InstrRecord} {e : RobEntry}
    (hcount : s.robCount ≠ 0) (he : s.rob[s.robHead]? = some e) (hr : s.recs[j]? = some r)
    (hdone : r.completed = true) (hv : s.commit d e = .ok v) :
    retireStage d j s = .next (v.retireMove j) := by
  simp only [retireStage, if_neg hcount, he, hr, if_pos hdone, hv]
  rfl

/-- Settles O24: the commitment, with a destination or without, and the move of retire. -/
theorem retireCommitsAndReleases : Obligations.RetireCommitsAndReleases := by
  constructor
  · intro i s j a newTag oldTag r e hactive hcount he hr hdone hdst ha hnew hold
    have hv := State.commit_eq_ok.mpr (.inr ⟨a, newTag, oldTag, hdst, hnew, hold, ha, rfl⟩)
    rw [exec_retire i hactive, retireStage_of_completed hcount he hr hdone hv, State.retireMove, State.advanced,
      State.updateRecord, List.modify_modify_eq]
    rfl
  · intro i s j r e hactive hcount he hr hdone hdst
    have hv : s.commit i.dst e = .ok s := State.commit_eq_ok.mpr (.inl ⟨hdst, rfl⟩)
    rw [exec_retire i hactive, retireStage_of_completed hcount he hr hdone hv, State.retireMove, State.advanced,
      State.updateRecord, List.modify_modify_eq]
    rfl

/-! ## The fields a stage writes -/

section Writes

variable {i : Instr} {s t : State} {j : Nat}

theorem exec_fetch_writes (hactive : s.active = some ⟨.fetch, j⟩) (h : exec i s = .next t) :
    t = { s with
      fq := t.fq, fetchPtr := t.fetchPtr
      recs := t.recs, trace := t.trace, progress := t.progress, active := t.active } := by
  rw [exec_fetch i hactive] at h
  obtain ⟨-, rfl⟩ | ⟨-, rfl⟩ := fetchStage_next h <;> rfl

theorem exec_decode_writes (hactive : s.active = some ⟨.decode, j⟩) (h : exec i s = .next t) :
    t = { s with
      fq := t.fq, dq := t.dq
      recs := t.recs, trace := t.trace, progress := t.progress, active := t.active } := by
  rw [exec_decode i hactive] at h
  obtain ⟨-, rfl⟩ | ⟨-, rfl⟩ := decodeStage_next h <;> rfl

theorem exec_dispatch_writes (hactive : s.active = some ⟨.dispatch, j⟩) (h : exec i s = .next t) :
    t = { s with
      dq := t.dq, specMap := t.specMap, specReady := t.specReady, freeList := t.freeList, rob := t.rob
      robCount := t.robCount, rs := t.rs, dispOut := t.dispOut
      recs := t.recs, trace := t.trace, progress := t.progress, active := t.active } := by
  rw [exec_dispatch i hactive] at h
  obtain ⟨-, rfl⟩ | ⟨k, src1, src2, n, u, -, -, -, hn, hu, rfl⟩ := dispatchStage_next h
  · rfl
  · obtain ⟨-, rfl⟩ := State.allocate_eq_ok.mp hu
    obtain ⟨-, rfl⟩ | ⟨a, p, rest, old, -, -, -, -, rfl⟩ := State.renameDestination_eq_ok.mp hn <;> rfl

theorem exec_issue_writes (hactive : s.active = some ⟨.issue, j⟩) (h : exec i s = .next t) :
    t = { s with
      xq := t.xq
      recs := t.recs, trace := t.trace, progress := t.progress, active := t.active } := by
  rw [exec_issue i hactive] at h
  obtain ⟨r, -, ⟨-, rfl⟩ | ⟨-, -, -, rfl⟩⟩ := issueStage_next h <;> rfl

theorem exec_execute_writes (hactive : s.active = some ⟨.execute, j⟩) (h : exec i s = .next t) :
    t = { s with
      xq := t.xq, cq := t.cq, rs := t.rs
      recs := t.recs, trace := t.trace, progress := t.progress, active := t.active } := by
  rw [exec_execute i hactive] at h
  obtain ⟨-, rfl⟩ | ⟨r, k, type, -, -, -, -, rfl⟩ := executeStage_next h <;> rfl

theorem exec_complete_writes (hactive : s.active = some ⟨.complete, j⟩) (h : exec i s = .next t) :
    t = { s with
      cq := t.cq, specReady := t.specReady, compOut := t.compOut
      recs := t.recs, trace := t.trace, progress := t.progress, active := t.active } := by
  rw [exec_complete i hactive] at h
  obtain ⟨r, -, ⟨-, rfl⟩ | ⟨u, -, hu, rfl⟩⟩ := completeStage_next h
  · rfl
  · obtain ⟨-, rfl⟩ | ⟨p, -, -, rfl⟩ := markReady_broadcast_eq_ok.mp hu <;> rfl

theorem exec_retire_writes (hactive : s.active = some ⟨.retire, j⟩) (h : exec i s = .next t) :
    t = { s with
      archMap := t.archMap, pendingFree := t.pendingFree, robHead := t.robHead, robCount := t.robCount
      nRetired := t.nRetired, retOut := t.retOut
      recs := t.recs, trace := t.trace, progress := t.progress, active := t.active } := by
  rw [exec_retire i hactive] at h
  obtain ⟨-, rfl⟩ | ⟨e, r, -, -, -, ⟨-, rfl⟩ | ⟨u, -, hu, rfl⟩⟩ := retireStage_next h
  · rfl
  · rfl
  · obtain ⟨-, rfl⟩ | ⟨a, p, old, -, -, -, -, rfl⟩ := State.commit_eq_ok.mp hu <;> rfl

/-- Outside `complete`, whose broadcast wakes other instructions, a stage writes the record of its own instruction
alone. -/
theorem exec_recs_other {st : Stage} {m : Nat} (hactive : s.active = some ⟨st, j⟩) (h : exec i s = .next t)
    (hm : m ≠ j) (hst : st ≠ .complete) : t.recs[m]? = s.recs[m]? := by
  have hjm : j ≠ m := hm.symm
  cases st with
  | complete => exact absurd rfl hst
  | fetch =>
    rw [exec_fetch i hactive] at h
    obtain ⟨-, rfl⟩ | ⟨-, rfl⟩ := fetchStage_next h <;> simp [hjm]
  | decode =>
    rw [exec_decode i hactive] at h
    obtain ⟨-, rfl⟩ | ⟨-, rfl⟩ := decodeStage_next h <;> simp [hjm]
  | dispatch =>
    rw [exec_dispatch i hactive] at h
    obtain ⟨-, rfl⟩ | ⟨k, src1, src2, n, u, -, -, -, hn, hu, rfl⟩ := dispatchStage_next h
    · rfl
    · obtain ⟨-, rfl⟩ := State.allocate_eq_ok.mp hu
      obtain ⟨hrecs, -⟩ := renameDestination_frame hn
      simp [hjm, hrecs]
  | issue =>
    rw [exec_issue i hactive] at h
    obtain ⟨r, -, ⟨-, rfl⟩ | ⟨-, -, -, rfl⟩⟩ := issueStage_next h <;> simp [hjm]
  | execute =>
    rw [exec_execute i hactive] at h
    obtain ⟨-, rfl⟩ | ⟨r, k, type, -, -, -, -, rfl⟩ := executeStage_next h <;> simp [hjm]
  | retire =>
    rw [exec_retire i hactive] at h
    obtain ⟨-, rfl⟩ | ⟨e, r, -, -, -, ⟨-, rfl⟩ | ⟨u, -, hu, rfl⟩⟩ := retireStage_next h
    · rfl
    · rfl
    · obtain ⟨-, rfl⟩ | ⟨a, p, old, -, -, -, -, rfl⟩ := State.commit_eq_ok.mp hu <;> simp [hjm]

end Writes

/-- Settles O27: none of the seven stages writes the program store, the configuration, the cycle or the status. -/
theorem noInstructionWritesMemory : Obligations.NoInstructionWritesMemory := by
  intro i s t h
  cases hactive : s.active with
  | none =>
    rw [exec_of_idle i hactive] at h
    cases h
    exact ⟨fun _ => rfl, rfl, rfl, rfl, rfl, rfl, rfl⟩
  | some selection =>
    obtain ⟨st, j⟩ := selection
    cases st with
    | fetch => rw [exec_fetch_writes hactive h]; exact ⟨fun _ => rfl, rfl, rfl, rfl, rfl, rfl, rfl⟩
    | decode => rw [exec_decode_writes hactive h]; exact ⟨fun _ => rfl, rfl, rfl, rfl, rfl, rfl, rfl⟩
    | dispatch => rw [exec_dispatch_writes hactive h]; exact ⟨fun _ => rfl, rfl, rfl, rfl, rfl, rfl, rfl⟩
    | issue => rw [exec_issue_writes hactive h]; exact ⟨fun _ => rfl, rfl, rfl, rfl, rfl, rfl, rfl⟩
    | execute => rw [exec_execute_writes hactive h]; exact ⟨fun _ => rfl, rfl, rfl, rfl, rfl, rfl, rfl⟩
    | complete => rw [exec_complete_writes hactive h]; exact ⟨fun _ => rfl, rfl, rfl, rfl, rfl, rfl, rfl⟩
    | retire => rw [exec_retire_writes hactive h]; exact ⟨fun _ => rfl, rfl, rfl, rfl, rfl, rfl, rfl⟩

/-- Settles O28: for each stage, the fields outside those it writes are as before. -/
theorem eachStageWritesItsOwnState : Obligations.EachStageWritesItsOwnState := by
  intro i s t st j hactive h
  have hrecs : ∀ m, m ≠ j → st ≠ .complete → t.recs[m]? = s.recs[m]? :=
    fun m hm hst => exec_recs_other hactive h hm hst
  simp only [← and_assoc]
  refine ⟨?_, hrecs⟩
  clear hrecs
  cases st with
  | fetch => rw [exec_fetch_writes hactive h]; simp
  | decode => rw [exec_decode_writes hactive h]; simp
  | dispatch => rw [exec_dispatch_writes hactive h]; simp
  | issue => rw [exec_issue_writes hactive h]; simp
  | execute => rw [exec_execute_writes hactive h]; simp
  | complete => rw [exec_complete_writes hactive h]; simp
  | retire => rw [exec_retire_writes hactive h]; simp

/-! ## Halted states -/

/-- Settles O9: an edge of a halted block is the third case of a step. -/
theorem haltedBlockIgnoresEdges : Obligations.HaltedBlockIgnoresEdges := fun _ hadmitted hrst hstatus =>
  step_eq_next.mpr ⟨hadmitted, .inr (.inl ⟨hrst, hstatus, rfl⟩)⟩

end Sys2Proof.Machine
end

section
/-!
SUPPORT. What no stage writes, and the outputs of a halted run (R30, R52, R304, R307).
-/
namespace Sys2Proof.Machine

/-! ## What no stage writes -/

/-- `t` has the parameters, the static fields, the cycle number and the status of `s` (R30, R52). -/
structure State.Fixed (s t : State) : Prop where
  cfg : t.cfg = s.cfg
  progLen : t.progLen = s.progLen
  prog : t.prog = s.prog
  instrs : t.recs.map InstrRecord.instr = s.recs.map InstrRecord.instr
  cycle : t.cycle = s.cycle
  status : t.status = s.status
  archReady : t.archReady = s.archReady
  rst : t.rst = s.rst

theorem State.Fixed.refl (s : State) : s.Fixed s := ⟨rfl, rfl, rfl, rfl, rfl, rfl, rfl, rfl⟩

theorem State.Fixed.trans {s t u : State} (h : s.Fixed t) (h' : t.Fixed u) : s.Fixed u :=
  ⟨h'.cfg.trans h.cfg, h'.progLen.trans h.progLen, h'.prog.trans h.prog, h'.instrs.trans h.instrs,
    h'.cycle.trans h.cycle, h'.status.trans h.status, h'.archReady.trans h.archReady, h'.rst.trans h.rst⟩

/-- A move that changes one record, and not its static fields. -/
theorem State.Fixed.of_modify {s t : State} {j : Nat} {f : InstrRecord → InstrRecord}
    (hrecs : t.recs = s.recs.modify j f) (hf : ∀ r, (f r).instr = r.instr)
    (h : t = { s with
      recs := t.recs, progress := t.progress, fetchPtr := t.fetchPtr, fq := t.fq, dq := t.dq, xq := t.xq, cq := t.cq
      dispOut := t.dispOut, compOut := t.compOut, retOut := t.retOut, specMap := t.specMap
      specReady := t.specReady, archMap := t.archMap, freeList := t.freeList, pendingFree := t.pendingFree
      rob := t.rob, robHead := t.robHead, robCount := t.robCount, rs := t.rs, nRetired := t.nRetired
      trace := t.trace, active := t.active }) : s.Fixed t := by
  have hinstrs : t.recs.map InstrRecord.instr = s.recs.map InstrRecord.instr := by
    rw [hrecs, map_instr_modify _ hf]
  rw [h]
  exact ⟨rfl, rfl, rfl, hinstrs, rfl, rfl, rfl, rfl⟩

theorem State.Fixed.of_commit {s v : State} {d : Operand} {e : RobEntry} (h : s.commit d e = .ok v) : s.Fixed v := by
  obtain ⟨-, rfl⟩ | ⟨a, p, old, -, -, -, -, rfl⟩ := State.commit_eq_ok.mp h
  · exact .refl _
  · exact ⟨rfl, rfl, rfl, rfl, rfl, rfl, rfl, rfl⟩

theorem State.Fixed.of_broadcast {s v : State} {o : Option Nat} (h : (s.broadcast o).markReady o = .ok v) :
    s.Fixed v := by
  obtain ⟨-, rfl⟩ | ⟨p, -, -, rfl⟩ := markReady_broadcast_eq_ok.mp h
  · exact .refl _
  · exact ⟨rfl, rfl, rfl, map_instr_wakeAll .., rfl, rfl, rfl, rfl⟩

theorem State.Fixed.of_renameDestination {s : State} {d : Operand} {n : Renaming}
    (h : s.renameDestination d = .ok n) : s.Fixed n.state := by
  obtain ⟨-, rfl⟩ | ⟨a, t, rest, old, -, -, -, -, rfl⟩ := State.renameDestination_eq_ok.mp h
  · exact .refl _
  · exact ⟨rfl, rfl, rfl, rfl, rfl, rfl, rfl, rfl⟩

theorem State.fixed_retireMove (s : State) (j : Nat) : s.Fixed (s.retireMove j) :=
  .of_modify (s.retireMove_recs j) (fun _ => rfl) rfl

theorem State.fixed_completeMove (s : State) (j : Nat) : s.Fixed (s.completeMove j) :=
  .of_modify (s.completeMove_recs j) (fun _ => rfl) rfl

theorem State.fixed_executeMove (s : State) (j k : Nat) (type : Kind) : s.Fixed (s.executeMove j k type) :=
  .of_modify (s.executeMove_recs j k type) (fun _ => rfl) rfl

theorem State.fixed_issueMove (s : State) (j : Nat) : s.Fixed (s.issueMove j) :=
  .of_modify (s.issueMove_recs j) (fun _ => rfl) rfl

theorem State.fixed_dispatchMove (s : State) (j k : Nat) (src1 src2 : Snapshot) (newTag oldTag : Option Nat) :
    s.Fixed (s.dispatchMove j k src1 src2 newTag oldTag) :=
  .of_modify (s.dispatchMove_recs j k src1 src2 newTag oldTag) (fun _ => rfl) rfl

theorem State.fixed_decodeMove (s : State) (j : Nat) : s.Fixed (s.decodeMove j) :=
  .of_modify (s.decodeMove_recs j) (fun _ => rfl) rfl

theorem State.fixed_fetchMove (s : State) : s.Fixed s.fetchMove :=
  .of_modify s.fetchMove_recs (fun _ => rfl) rfl

theorem fixed_keptByRetire (s : State) : KeptByRetire s.Fixed :=
  fun _ _ _ _ h _ _ _ _ hv => (h.trans (.of_commit hv)).trans (State.fixed_retireMove ..)

theorem fixed_keptAfterComplete (s : State) : KeptAfterComplete s.Fixed where
  deselect _ h := h.trans ⟨rfl, rfl, rfl, rfl, rfl, rfl, rfl, rfl⟩
  execute _ _ _ _ _ _ h _ _ _ _ _ := h.trans (State.fixed_executeMove ..)
  issue _ _ _ _ _ h _ _ _ _ _ _ := h.trans (State.fixed_issueMove ..)
  dispatch _ _ _ _ _ _ _ _ h _ _ _ _ _ hn :=
    (h.trans (.of_renameDestination hn)).trans (State.fixed_dispatchMove ..)
  decode _ _ _ h _ _ := h.trans (State.fixed_decodeMove ..)
  fetch _ h _ _ := h.trans (State.fixed_fetchMove _)

theorem fixed_keptByAnyComplete (s : State) : KeptByAnyComplete s.Fixed :=
  fun _ _ _ _ hs _ hv => (hs.trans (.of_broadcast hv)).trans (State.fixed_completeMove ..)

/-- A cycle keeps what no stage writes, up to its end. -/
theorem cycleStep_fixed {s t : State} (h : cycleStep s = .next t) : ∃ u, s.Fixed u ∧ t = cycleEnd u :=
  cycle_keeps (fixed_keptByRetire s) (fixed_keptByAnyComplete s) (fixed_keptAfterComplete s)
    ⟨rfl, rfl, rfl, rfl, rfl, rfl, rfl, rfl⟩ h

/-! ## The outputs of a halted run -/

/-- A step that performs a cycle. -/
theorem step_of_performsCycle {s t : State} (hs : s.performsCycle) : step s = .next t ↔ cycleStep s = .next t := by
  obtain ⟨hadmitted, hrst, hstatus⟩ := hs
  simp [step, hadmitted, hrst, hstatus]

/-- An abort leaves the cycle number (R137, R304). -/
theorem cycle_of_aborted {s t : State} (hs : s.performsCycle) (h : step s = .next t) (ht : t.status = .aborted) :
    t.cycle = s.cycle := by
  obtain ⟨u, hu, rfl⟩ := cycleStep_fixed ((step_of_performsCycle hs).mp h)
  have hrunning : u.status = .running := hu.status.trans hs.2.2
  unfold cycleEnd at ht ⊢
  split
  next hall => simp [hall] at ht
  next hall =>
    split
    next => exact hu.cycle
    next hfires => simp [hall, hfires, hrunning] at ht

/-- A fetched instruction waits in FQ or has been decoded (R86). -/
theorem State.Structured.mem_fq {s : State} (h : s.Structured) {j : Nat} :
    j ∈ s.fq ↔ s.fetchPtr - s.fq.length ≤ j ∧ j < s.fetchPtr := by
  have hle := h.placed.dispatched_le
  have hfront := congrArg (List.drop s.dq.length) h.placed.front_order
  have hlen := congrArg List.length h.placed.front_order
  rw [List.drop_left, List.drop_range'] at hfront
  rw [List.length_append, List.length_range'] at hlen
  rw [hfront, List.mem_range'_1, List.length_range']
  omega

/-- The timestamps of a record that are UNSET are those of the stages its instruction has not reached (R41). -/
theorem State.Structured.unset_iff {s : State} (h : s.Structured) {j : Nat} (hj : j < s.progLen) :
    ((s.record j).ts.fetch = -1 ↔ s.fetchPtr ≤ j)
      ∧ ((s.record j).ts.decode = -1 ↔ s.fetchPtr ≤ j ∨ j ∈ s.fq)
      ∧ ((s.record j).ts.dispatch = -1 ↔ (s.record j).renamed = false)
      ∧ ((s.record j).ts.issue = -1 ↔ (s.record j).issued = false)
      ∧ ((s.record j).ts.execute = -1 ↔ j ∉ s.cq ∧ (s.record j).completed = false)
      ∧ ((s.record j).ts.complete = -1 ↔ (s.record j).completed = false)
      ∧ ((s.record j).ts.retire = -1 ↔ s.nRetired ≤ j) := by
  have hc := h.coherent hj
  have hloc := h.locates hj
  have hexecuted : (s.record j).ts.execute ≠ unset ↔ (s.record j).executed = true := decide_eq_true_iff.symm
  refine ⟨(not_iff_comm.mp hloc.fetch_set).symm.trans Nat.not_lt,
    (not_iff_comm.mp hloc.decode_set).symm.trans ?_,
    (not_iff_comm.mp hc.dispatch_set).symm.trans (Bool.not_eq_true _).to_iff,
    (not_iff_comm.mp hc.issue_set).symm.trans (Bool.not_eq_true _).to_iff,
    (not_iff_comm.mp hexecuted).symm.trans ?_,
    (not_iff_comm.mp hc.complete_set).symm.trans (Bool.not_eq_true _).to_iff,
    (not_iff_comm.mp (hc.retire_set.trans hloc.retired_iff)).symm.trans Nat.not_lt⟩
  · rw [h.mem_fq]
    omega
  · rw [hloc.cq_iff]
    cases hcompleted : (s.record j).completed with
    | true => simp [hc.completed_executed hcompleted]
    | false => simp

/-- Settles O60: the dump and the report are read off the state, and the places of a structured state say which
timestamps are set. -/
theorem haltedOutputsShowTheRun : Obligations.HaltedOutputsShowTheRun := by
  refine ⟨fun s t hs h ht => ⟨if_pos ht, cycle_of_aborted hs h ht⟩, fun s hs => if_neg hs, fun s hs => if_pos hs,
    fun s h hs => ⟨_, if_neg hs, ?_, fun j r hr => ?_⟩⟩
  · rw [List.length_map, h.shaped.recs_length]
  · refine ⟨by rw [List.getElem?_map, hr]; rfl, ?_⟩
    rw [← State.record_eq_of_getElem? hr]
    exact h.unset_iff (h.lt_progLen_of_getElem? hr)

end Sys2Proof.Machine
end

section
/-!
SUPPORT. The trace of a cycle: each stage appends the instructions it advances, at most `W` of them; the three
logs; and the registers taken and released (R39, R46, R132, R140, R283, R306).
-/
namespace Sys2Proof.Machine

/-! ## The instructions of one stage in the trace -/

/-- One more event in the trace. -/
theorem State.advancedBy_of_trace {s t : State} {c j : Nat} {st : Stage} (h : t.trace = s.trace ++ [⟨c, st, j⟩])
    (st' : Stage) : t.advancedBy st' = s.advancedBy st' ++ if st = st' then [j] else [] := by
  by_cases hst : st = st' <;> simp [State.advancedBy, h, hst]

theorem State.advancedBy_congr {s t : State} (h : t.trace = s.trace) (st : Stage) :
    t.advancedBy st = s.advancedBy st := by
  rw [State.advancedBy, h, State.advancedBy]

/-- Between `s` and `t` only stage `st` advances instructions, at most `n` of them, under one width. -/
structure State.Advances (st : Stage) (n : Nat) (s t : State) : Prop where
  length_le : ∀ st', (t.advancedBy st').length ≤ (s.advancedBy st').length + if st' = st then n else 0
  cfg : t.cfg = s.cfg

namespace State.Advances

variable {st : Stage} {s t u : State}

theorem refl (st : Stage) (n : Nat) (s : State) : s.Advances st n s := ⟨fun _ => Nat.le_add_right _ _, rfl⟩

theorem trans {m n : Nat} (h : s.Advances st m t) (h' : t.Advances st n u) : s.Advances st (m + n) u := by
  refine ⟨fun st' => ?_, h'.cfg.trans h.cfg⟩
  have h1 := h.length_le st'
  have h2 := h'.length_le st'
  by_cases hst : st' = st
  · rw [if_pos hst] at h1 h2 ⊢
    omega
  · rw [if_neg hst] at h1 h2 ⊢
    omega

theorem mono {m n : Nat} (h : s.Advances st m t) (hle : m ≤ n) : s.Advances st n t := by
  refine ⟨fun st' => (h.length_le st').trans (Nat.add_le_add_left ?_ _), h.cfg⟩
  split
  next => exact hle
  next => exact Nat.le_refl 0

/-- A stall advances nothing. -/
theorem of_stall {st' : Stage} {j : Nat} (h : u = s.select st' j) : s.Advances st 0 u.deselect := by
  rw [h]
  exact ⟨fun _ => Nat.le_add_right _ _, rfl⟩

/-- A move advances one instruction. -/
theorem of_move {c j : Nat} (htrace : t.trace = s.trace ++ [⟨c, st, j⟩]) (hcfg : t.cfg = s.cfg) :
    s.Advances st 1 t := by
  refine ⟨fun st' => ?_, hcfg⟩
  rw [State.advancedBy_of_trace htrace, List.length_append]
  by_cases hst : st = st' <;> simp [hst]

/-- A loop of a stage: one instruction, and the rest of the loop unless it stalled. -/
theorem of_orStall {n : Nat} {o : Result} {k : State → Result}
    (hmeaning : ∀ v, o = .next v → s.Advances st 1 v.deselect)
    (hrest : ∀ v, k v = .next t → v.Advances st n t) (h : orStall o k = .next t) : s.Advances st (n + 1) t := by
  obtain ⟨v, hv, ⟨hidle, hk⟩ | ⟨-, rfl⟩⟩ := orStall_eq_next.mp h
  · have hfirst := hmeaning v hv
    rw [State.deselect_of_idle hidle] at hfirst
    exact (hfirst.trans (hrest v hk)).mono (by omega)
  · exact (hmeaning v hv).mono (by omega)

end State.Advances

/-! ## What each stage procedure appends -/

theorem trace_of_commit {s v : State} {d : Operand} {e : RobEntry} (h : s.commit d e = .ok v) :
    v.trace = s.trace ∧ v.cfg = s.cfg := by
  obtain ⟨-, rfl⟩ | ⟨a, p, old, -, -, -, -, rfl⟩ := State.commit_eq_ok.mp h <;> exact ⟨rfl, rfl⟩

theorem trace_of_broadcast {s v : State} {o : Option Nat} (h : (s.broadcast o).markReady o = .ok v) :
    v.trace = s.trace ∧ v.cfg = s.cfg := by
  obtain ⟨-, rfl⟩ | ⟨p, -, -, rfl⟩ := markReady_broadcast_eq_ok.mp h <;> exact ⟨rfl, rfl⟩

theorem trace_of_renameDestination {s : State} {d : Operand} {n : Renaming} (h : s.renameDestination d = .ok n) :
    n.state.trace = s.trace ∧ n.state.cfg = s.cfg := by
  obtain ⟨-, rfl⟩ | ⟨a, t, rest, old, -, -, -, -, rfl⟩ := State.renameDestination_eq_ok.mp h <;> exact ⟨rfl, rfl⟩

theorem retireLoop_advances {n : Nat} {s t : State} (h : retireLoop n s = .next t) : s.Advances .retire n t := by
  induction n generalizing s with
  | zero =>
    cases h
    exact .refl ..
  | succ n ih =>
    rw [retireLoop] at h
    split at h
    next =>
      cases h
      exact .refl ..
    next =>
      split at h
      next => cases h
      next e he =>
        refine .of_orStall (fun u hu => ?_) (fun v hv => ih hv) h
        obtain hstall | ⟨r, v, -, -, hv, hmove⟩ := present_retire_cases he hu
        · exact (State.Advances.of_stall hstall).mono (Nat.zero_le 1)
        · obtain ⟨htrace, hcfg⟩ := trace_of_commit hv
          rw [hmove]
          exact .of_move (congrArg (· ++ [_]) htrace) hcfg

theorem completeScan_advances {js : List Nat} {s t : State} (h : completeScan js s = .next t) :
    s.Advances .complete js.length t := by
  induction js generalizing s with
  | nil =>
    cases h
    exact .refl ..
  | cons j js ih =>
    obtain ⟨u, hu, hrest⟩ := andThen_eq_next.mp h
    have hfirst : s.Advances .complete 1 u.deselect := by
      obtain hstall | ⟨r, v, -, -, hv, hmove⟩ := present_complete_cases hu
      · exact (State.Advances.of_stall hstall).mono (Nat.zero_le 1)
      · obtain ⟨htrace, hcfg⟩ := trace_of_broadcast hv
        rw [hmove]
        exact .of_move (congrArg (· ++ [_]) htrace) hcfg
    exact (hfirst.trans (ih hrest)).mono (Nat.le_of_eq (Nat.add_comm ..))

theorem executeLoop_advances {n : Nat} {s t : State} (h : executeLoop n s = .next t) : s.Advances .execute n t := by
  induction n generalizing s with
  | zero =>
    cases h
    exact .refl ..
  | succ n ih =>
    rw [executeLoop] at h
    split at h
    next =>
      cases h
      exact .refl ..
    next =>
      refine .of_orStall (fun u hu => ?_) (fun v hv => ih hv) h
      obtain hstall | ⟨r, k, type, -, -, -, -, hmove⟩ := present_execute_cases hu
      · exact (State.Advances.of_stall hstall).mono (Nat.zero_le 1)
      · rw [hmove]
        exact .of_move rfl rfl

theorem issueScan_advances {ks : List Nat} {n : Nat} {s t : State} (h : issueScan ks n s = .next t) :
    s.Advances .issue n t := by
  induction ks generalizing s n with
  | nil =>
    cases h
    exact .refl ..
  | cons k ks ih =>
    rw [issueScan] at h
    split at h
    next =>
      cases h
      exact .refl ..
    next hcap =>
      have hpos : n ≠ 0 := fun hn => hcap (by simp [hn])
      split at h
      next => exact ih h
      next j _ =>
        obtain ⟨u, hu, hrest⟩ := andThen_eq_next.mp h
        obtain rfl | ⟨r, -, -, -, -, rfl⟩ := present_issue_cases hu
        · have hfirst : s.Advances .issue 0 (s.select .issue j).deselect := .of_stall rfl
          exact (hfirst.trans (ih hrest)).mono (Nat.le_of_eq (Nat.zero_add n))
        · have hfirst : s.Advances .issue 1 (s.issueMove j) := .of_move rfl rfl
          have hrest' : (s.issueMove j).Advances .issue (n - 1) t := ih hrest
          exact (hfirst.trans hrest').mono (by omega)

theorem dispatchLoop_advances {n : Nat} {s t : State} (h : dispatchLoop n s = .next t) :
    s.Advances .dispatch n t := by
  induction n generalizing s with
  | zero =>
    cases h
    exact .refl ..
  | succ n ih =>
    rw [dispatchLoop] at h
    split at h
    next =>
      cases h
      exact .refl ..
    next =>
      refine .of_orStall (fun u hu => ?_) (fun v hv => ih hv) h
      obtain hstall | ⟨r, k, src1, src2, m, -, -, -, -, hm, hmove⟩ := present_dispatch_cases hu
      · exact (State.Advances.of_stall hstall).mono (Nat.zero_le 1)
      · obtain ⟨htrace, hcfg⟩ := trace_of_renameDestination hm
        rw [hmove]
        exact .of_move (congrArg (· ++ [_]) htrace) hcfg

theorem decodeLoop_advances {n : Nat} {s t : State} (h : decodeLoop n s = .next t) : s.Advances .decode n t := by
  induction n generalizing s with
  | zero =>
    cases h
    exact .refl ..
  | succ n ih =>
    rw [decodeLoop] at h
    split at h
    next =>
      cases h
      exact .refl ..
    next =>
      refine .of_orStall (fun u hu => ?_) (fun v hv => ih hv) h
      obtain hstall | ⟨-, hmove⟩ := present_decode_cases hu
      · exact (State.Advances.of_stall hstall).mono (Nat.zero_le 1)
      · rw [hmove]
        exact .of_move rfl rfl

theorem fetchLoop_advances {n : Nat} {s t : State} (h : fetchLoop n s = .next t) : s.Advances .fetch n t := by
  induction n generalizing s with
  | zero =>
    cases h
    exact .refl ..
  | succ n ih =>
    rw [fetchLoop] at h
    split at h
    next =>
      refine .of_orStall (fun u hu => ?_) (fun v hv => ih hv) h
      obtain hstall | ⟨-, hmove⟩ := presentFetched_cases hu
      · exact (State.Advances.of_stall hstall).mono (Nat.zero_le 1)
      · rw [hmove]
        exact .of_move rfl rfl
    next =>
      cases h
      exact .refl ..

/-- In one cycle no stage advances more than `W` instructions (R140, R361). -/
theorem advancedBy_length_le_width {s t : State} (h : cycleStep s = .next t) (st : Stage) :
    (t.advancedBy st).length ≤ s.cfg.width := by
  obtain ⟨s1, s2, s3, s4, s5, s6, s7, h1, h2, h3, h4, h5, h6, h7, rfl⟩ := cycleStep_stages h
  have hend : (cycleEnd s7).advancedBy st = s7.advancedBy st := State.advancedBy_congr (cycleEnd_trace s7) st
  have hstart : ((cycleStart s).advancedBy st).length = 0 := rfl
  have a1 := retireLoop_advances h1
  have a2 := (completeScan_advances h2).mono (List.length_take_le _ _)
  have a3 := executeLoop_advances h3
  have a4 := issueScan_advances h4
  have a5 := dispatchLoop_advances h5
  have a6 := decodeLoop_advances h6
  have a7 := fetchLoop_advances h7
  have w1 : s1.cfg = s.cfg := a1.cfg
  have w2 : s2.cfg = s.cfg := a2.cfg.trans w1
  have w3 : s3.cfg = s.cfg := a3.cfg.trans w2
  have w4 : s4.cfg = s.cfg := a4.cfg.trans w3
  have w5 : s5.cfg = s.cfg := a5.cfg.trans w4
  have w6 : s6.cfg = s.cfg := a6.cfg.trans w5
  rw [w1] at a2
  rw [w2] at a3
  rw [w3] at a4
  rw [w4] at a5
  rw [w5] at a6
  rw [w6] at a7
  have hone : ∀ w : Nat, (if st = .retire then w else 0) + (if st = .complete then w else 0)
      + (if st = .execute then w else 0) + (if st = .issue then w else 0) + (if st = .dispatch then w else 0)
      + (if st = .decode then w else 0) + (if st = .fetch then w else 0) = w := by
    intro w
    cases st <;> simp
  have hwidth := hone s.cfg.width
  have l1 := a1.length_le st
  have l2 := a2.length_le st
  have l3 := a3.length_le st
  have l4 := a4.length_le st
  have l5 := a5.length_le st
  have l6 := a6.length_le st
  have l7 := a7.length_le st
  rw [hend]
  omega

/-! ## The logs -/

/-- The three logs hold what their stages have advanced in this cycle (R46). -/
structure State.Logged (s : State) : Prop where
  dispatch : s.dispOut = s.advancedBy .dispatch
  complete : s.compOut = s.advancedBy .complete
  retire : s.retOut = s.advancedBy .retire

/-- A move with its event and its log. -/
theorem State.Logged.of_move {s t : State} (h : s.Logged) {c j : Nat} {st : Stage}
    (htrace : t.trace = s.trace ++ [⟨c, st, j⟩])
    (hdispatch : t.dispOut = s.dispOut ++ if st = .dispatch then [j] else [])
    (hcomplete : t.compOut = s.compOut ++ if st = .complete then [j] else [])
    (hretire : t.retOut = s.retOut ++ if st = .retire then [j] else []) : t.Logged := by
  refine ⟨?_, ?_, ?_⟩
  · rw [State.advancedBy_of_trace htrace, hdispatch, h.dispatch]
  · rw [State.advancedBy_of_trace htrace, hcomplete, h.complete]
  · rw [State.advancedBy_of_trace htrace, hretire, h.retire]

theorem State.Logged.of_frame {s t : State} (h : s.Logged) (htrace : t.trace = s.trace)
    (hlogs : t.dispOut = s.dispOut ∧ t.compOut = s.compOut ∧ t.retOut = s.retOut) : t.Logged := by
  obtain ⟨hdispatch, hcomplete, hretire⟩ := hlogs
  refine ⟨?_, ?_, ?_⟩
  · rw [hdispatch, h.dispatch, State.advancedBy_congr htrace]
  · rw [hcomplete, h.complete, State.advancedBy_congr htrace]
  · rw [hretire, h.retire, State.advancedBy_congr htrace]

theorem logged_keptByRetire : KeptByRetire State.Logged := by
  intro s e r v h _ _ _ _ hv
  have hlogged : v.Logged := by
    obtain ⟨-, rfl⟩ | ⟨a, p, old, -, -, -, -, rfl⟩ := State.commit_eq_ok.mp hv
    · exact h
    · exact h.of_frame rfl ⟨rfl, rfl, rfl⟩
  exact hlogged.of_move rfl (List.append_nil _).symm (List.append_nil _).symm rfl

theorem logged_keptByAnyComplete : KeptByAnyComplete State.Logged := by
  intro s j r v h _ hv
  have hlogged : v.Logged := by
    obtain ⟨-, rfl⟩ | ⟨p, -, -, rfl⟩ := markReady_broadcast_eq_ok.mp hv
    · exact h
    · exact h.of_frame rfl ⟨rfl, rfl, rfl⟩
  exact hlogged.of_move rfl (List.append_nil _).symm rfl (List.append_nil _).symm

theorem logged_keptAfterComplete : KeptAfterComplete State.Logged where
  deselect _ h := h.of_frame rfl ⟨rfl, rfl, rfl⟩
  execute _ _ _ _ _ _ h _ _ _ _ _ :=
    h.of_move rfl (List.append_nil _).symm (List.append_nil _).symm (List.append_nil _).symm
  issue _ _ _ _ _ h _ _ _ _ _ _ :=
    h.of_move rfl (List.append_nil _).symm (List.append_nil _).symm (List.append_nil _).symm
  dispatch s j rest r k src1 src2 n h _ _ _ _ _ hn := by
    have hlogged : n.state.Logged := by
      obtain ⟨-, rfl⟩ | ⟨a, t, rest, old, -, -, -, -, rfl⟩ := State.renameDestination_eq_ok.mp hn
      · exact h
      · exact h.of_frame rfl ⟨rfl, rfl, rfl⟩
    exact hlogged.of_move rfl rfl (List.append_nil _).symm (List.append_nil _).symm
  decode _ _ _ h _ _ :=
    h.of_move rfl (List.append_nil _).symm (List.append_nil _).symm (List.append_nil _).symm
  fetch _ h _ _ := h.of_move rfl (List.append_nil _).symm (List.append_nil _).symm (List.append_nil _).symm

/-- The logs at the end of a cycle (R46). -/
theorem cycleStep_logged {s t : State} (h : cycleStep s = .next t) : t.Logged := by
  have hstart : (cycleStart s).Logged := ⟨rfl, rfl, rfl⟩
  obtain ⟨u, hu, rfl⟩ := cycle_keeps logged_keptByRetire logged_keptByAnyComplete logged_keptAfterComplete hstart h
  exact hu.of_frame (cycleEnd_trace u) ⟨cycleEnd_dispOut u, cycleEnd_compOut u, cycleEnd_retOut u⟩

/-- Settles O39: the logs and the trace grow together, and no stage advances more than `W` instructions. -/
theorem logsHoldThisCyclesAdvances : Obligations.LogsHoldThisCyclesAdvances := by
  intro s t hs h
  rw [step_of_performsCycle hs] at h
  have hlogged := cycleStep_logged h
  refine ⟨hlogged.dispatch, hlogged.complete, hlogged.retire, ?_, ?_, ?_⟩
  · rw [hlogged.dispatch]
    exact advancedBy_length_le_width h .dispatch
  · rw [hlogged.complete]
    exact advancedBy_length_le_width h .complete
  · rw [hlogged.retire]
    exact advancedBy_length_le_width h .retire

end Sys2Proof.Machine
end

section
/-!
SUPPORT. The registers that a cycle takes from the free list and the registers it releases (R39, R132, R206, R283,
R343).
-/
namespace Sys2Proof.Machine

/-- Equal static fields are equal record by record. -/
theorem State.Fixed.record_instr {s t : State} (h : s.Fixed t) (j : Nat) :
    (t.record j).instr = (s.record j).instr := by
  have hj := congrArg (·[j]?) h.instrs
  simp only [List.getElem?_map] at hj
  rw [State.record, State.record, List.getD_eq_getElem?_getD, List.getD_eq_getElem?_getD]
  cases ht : t.recs[j]? <;> cases hs : s.recs[j]? <;> simp [ht, hs] at hj ⊢
  exact hj

/-! ## What dispatch takes -/

/-- The instructions among `js` that take a register (R206). -/
def State.writers (s : State) (js : List Nat) : List Nat := js.filter fun j => (s.record j).instr.dst.isSome

/-- What was free at the start of the cycle is taken, one register for each dispatch with a destination, or still
free, in order. -/
structure State.Took (s t : State) : Prop where
  fixed : s.Fixed t
  taken : ∃ taken, taken ++ t.freeList = s.freeList ++ s.pendingFree
    ∧ taken.length = (s.writers (t.advancedBy .dispatch)).length

/-- A move that takes no register and dispatches nothing. -/
theorem State.Took.of_frame {s t u : State} (h : s.Took t) (hfixed : t.Fixed u) (hfree : u.freeList = t.freeList)
    (hadvanced : u.advancedBy .dispatch = t.advancedBy .dispatch) : s.Took u :=
  ⟨h.fixed.trans hfixed, by rw [hfree, hadvanced]; exact h.taken⟩

/-- A move of another stage. -/
theorem State.Took.of_move {s t u : State} (h : s.Took t) {c j : Nat} {st : Stage} (hst : st ≠ .dispatch)
    (hfixed : t.Fixed u) (hfree : u.freeList = t.freeList) (htrace : u.trace = t.trace ++ [⟨c, st, j⟩]) : s.Took u :=
  h.of_frame hfixed hfree (by rw [State.advancedBy_of_trace htrace, if_neg hst, List.append_nil])

theorem took_keptByRetire (s : State) : KeptByRetire s.Took := by
  intro u e r v h _ _ _ _ hv
  have htook : s.Took v := by
    refine h.of_frame (.of_commit hv) ?_ (State.advancedBy_congr (trace_of_commit hv).1 _)
    obtain ⟨-, rfl⟩ | ⟨a, p, old, -, -, -, -, rfl⟩ := State.commit_eq_ok.mp hv <;> rfl
  exact htook.of_move (by decide) (State.fixed_retireMove ..) rfl rfl

theorem took_keptByAnyComplete (s : State) : KeptByAnyComplete s.Took := by
  intro u j r v h _ hv
  have htook : s.Took v := by
    refine h.of_frame (.of_broadcast hv) ?_ (State.advancedBy_congr (trace_of_broadcast hv).1 _)
    obtain ⟨-, rfl⟩ | ⟨p, -, -, rfl⟩ := markReady_broadcast_eq_ok.mp hv <;> rfl
  exact htook.of_move (by decide) (State.fixed_completeMove ..) rfl rfl

/-- Dispatch takes the head of the free list exactly where there is a destination (R206). -/
theorem State.Took.dispatch {s u : State} (h : s.Took u) {j k : Nat} {r : InstrRecord} {src1 src2 : Snapshot}
    {n : Renaming} (hr : u.recs[j]? = some r) (hn : u.renameDestination r.instr.dst = .ok n) :
    s.Took (n.state.dispatchMove j k src1 src2 n.newTag n.oldTag) := by
  obtain ⟨hfixed, taken, htaken, hlen⟩ := h
  have hdst : (s.record j).instr.dst = r.instr.dst := by
    rw [← hfixed.record_instr j, State.record_eq_of_getElem? hr]
  have hwriters : s.writers ((n.state.dispatchMove j k src1 src2 n.newTag n.oldTag).advancedBy .dispatch)
      = s.writers (u.advancedBy .dispatch) ++ s.writers [j] := by
    have htrace : (n.state.dispatchMove j k src1 src2 n.newTag n.oldTag).trace
        = n.state.trace ++ [⟨n.state.cycle, .dispatch, j⟩] := rfl
    rw [State.advancedBy_of_trace htrace, if_pos rfl, State.advancedBy_congr (trace_of_renameDestination hn).1,
      State.writers, List.filter_append]
    rfl
  refine ⟨(hfixed.trans (.of_renameDestination hn)).trans (State.fixed_dispatchMove ..), ?_⟩
  rw [hwriters, List.length_append]
  obtain ⟨hnone, rfl⟩ | ⟨a, p, rest, old, hsome, hfree, -, -, rfl⟩ := State.renameDestination_eq_ok.mp hn
  · refine ⟨taken, htaken, hlen.trans ?_⟩
    simp [State.writers, hdst, hnone]
  · refine ⟨taken ++ [p], ?_, ?_⟩
    · rw [hfree] at htaken
      rw [← htaken, List.append_assoc]
      rfl
    · rw [List.length_append, hlen]
      simp [State.writers, hdst, hsome]

theorem took_keptAfterComplete (s : State) : KeptAfterComplete s.Took where
  deselect u h := h.of_frame ⟨rfl, rfl, rfl, rfl, rfl, rfl, rfl, rfl⟩ rfl rfl
  execute _ _ _ _ _ _ h _ _ _ _ _ := h.of_move (by decide) (State.fixed_executeMove ..) rfl rfl
  issue _ _ _ _ _ h _ _ _ _ _ _ := h.of_move (by decide) (State.fixed_issueMove ..) rfl rfl
  dispatch _ _ _ _ _ _ _ _ h _ hr _ _ _ hn := h.dispatch hr hn
  decode _ _ _ h _ _ := h.of_move (by decide) (State.fixed_decodeMove ..) rfl rfl
  fetch u h _ _ := h.of_move (by decide) u.fixed_fetchMove rfl rfl

/-- What a cycle takes from the free list. -/
theorem cycleStep_took {s t : State} (h : cycleStep s = .next t) :
    ∃ taken, taken ++ t.freeList = s.freeList ++ s.pendingFree
      ∧ taken.length = (s.writers (t.advancedBy .dispatch)).length := by
  have hstart : s.Took (cycleStart s) := ⟨⟨rfl, rfl, rfl, rfl, rfl, rfl, rfl, rfl⟩, [], rfl, rfl⟩
  obtain ⟨u, hu, rfl⟩ :=
    cycle_keeps (took_keptByRetire s) (took_keptByAnyComplete s) (took_keptAfterComplete s) hstart h
  rw [cycleEnd_freeList, State.advancedBy_congr (cycleEnd_trace u)]
  exact hu.taken

/-! ## What retirement releases -/

/-- The pending list is Told of the entries retired in this cycle, and the ROB holds the entries after them. -/
structure State.Released (s t : State) : Prop where
  sound : t.Sound
  rest : t.robEntries = s.robEntries.drop (t.advancedBy .retire).length
  pending : t.pendingFree = (s.robEntries.take (t.advancedBy .retire).length).filterMap RobEntry.oldTag

theorem released_keptByRetire (s : State) : KeptByRetire s.Released := by
  intro u e r v h hcount he hr hdone hv
  have hv' : u.commit (u.record e.inst).instr.dst e = .ok v := by rwa [State.record_eq_of_getElem? hr]
  obtain ⟨-, hcons, hpending⟩ := h.sound.2.retireMove h.sound.1 hcount he hv'
  have htrace : (v.retireMove e.inst).trace = v.trace ++ [⟨v.cycle, .retire, e.inst⟩] := rfl
  have hadvanced : ((v.retireMove e.inst).advancedBy .retire).length = (u.advancedBy .retire).length + 1 := by
    rw [State.advancedBy_of_trace htrace, State.advancedBy_congr (trace_of_commit hv).1]
    simp
  have hdrop := h.rest.symm.trans hcons
  refine ⟨sound_keptByRetire u e r v h.sound hcount he hr hdone hv, ?_, ?_⟩
  · rw [hadvanced, ← List.drop_drop, hdrop]
    rfl
  · have hentry : s.robEntries[(u.advancedBy .retire).length]? = some e := by
      rw [← List.head?_drop, hdrop]
      rfl
    show v.pendingFree = _
    rw [hadvanced, List.take_add_one, hentry, List.filterMap_append, hpending, h.pending]
    cases htold : e.oldTag <;> simp [htold]

/-- The stages after `retire` neither retire nor release. -/
structure State.KeepsReleased (s t : State) : Prop where
  pending : t.pendingFree = s.pendingFree
  retired : t.advancedBy .retire = s.advancedBy .retire

/-- A move of another stage. -/
theorem State.KeepsReleased.of_move {s t u : State} (h : s.KeepsReleased t) {c j : Nat} {st : Stage}
    (hst : st ≠ .retire) (hpending : u.pendingFree = t.pendingFree) (htrace : u.trace = t.trace ++ [⟨c, st, j⟩]) :
    s.KeepsReleased u :=
  ⟨hpending.trans h.pending, by rw [State.advancedBy_of_trace htrace, if_neg hst, List.append_nil, h.retired]⟩

theorem keepsReleased_keptByAnyComplete (s : State) : KeptByAnyComplete s.KeepsReleased := by
  intro u j r v h _ hv
  have hkeeps : s.KeepsReleased v := by
    obtain ⟨-, rfl⟩ | ⟨p, -, -, rfl⟩ := markReady_broadcast_eq_ok.mp hv
    · exact h
    · exact ⟨h.pending, h.retired⟩
  exact hkeeps.of_move (by decide) rfl rfl

theorem keepsReleased_keptAfterComplete (s : State) : KeptAfterComplete s.KeepsReleased where
  deselect _ h := ⟨h.pending, h.retired⟩
  execute _ _ _ _ _ _ h _ _ _ _ _ := h.of_move (by decide) rfl rfl
  issue _ _ _ _ _ h _ _ _ _ _ _ := h.of_move (by decide) rfl rfl
  dispatch u j rest r k src1 src2 n h _ _ _ _ _ hn := by
    have hkeeps : s.KeepsReleased n.state := by
      obtain ⟨-, rfl⟩ | ⟨a, t, rest, old, -, -, -, -, rfl⟩ := State.renameDestination_eq_ok.mp hn
      · exact h
      · exact ⟨h.pending, h.retired⟩
    exact hkeeps.of_move (by decide) rfl rfl
  decode _ _ _ h _ _ := h.of_move (by decide) rfl rfl
  fetch _ h _ _ := h.of_move (by decide) rfl rfl

/-- What a cycle releases. -/
theorem cycleStep_released {s t : State} (hs : s.Sound) (h : cycleStep s = .next t) :
    t.pendingFree = (s.robEntries.take (t.advancedBy .retire).length).filterMap RobEntry.oldTag := by
  obtain ⟨s1, s2, s3, s4, s5, s6, s7, h1, h2, h3, h4, h5, h6, h7, rfl⟩ := cycleStep_stages h
  have hstart : s.Released (cycleStart s) := ⟨⟨hs.1.cycleStart, hs.2.cycleStart⟩, rfl, rfl⟩
  have hdeselect : ∀ u, s.Released u → s.Released u.deselect := fun u hu => by
    rwa [State.deselect_of_idle hu.sound.1.shaped.idle]
  have hretired := (released_keptByRetire s).retireLoop hdeselect hstart h1
  have hkept := keeps_after_retire (keepsReleased_keptByAnyComplete s1) (keepsReleased_keptAfterComplete s1) ⟨rfl, rfl⟩
    h2 h3 h4 h5 h6 h7
  rw [cycleEnd_pendingFree, State.advancedBy_congr (cycleEnd_trace s7), hkept.pending, hkept.retired]
  exact hretired.pending

/-- Settles O41: dispatch alone takes from the free list, and retirement alone, the first stage, adds to the pending
list. -/
theorem releasedRegistersWaitOneCycle : Obligations.ReleasedRegistersWaitOneCycle := by
  intro s t hs hc hperforms h
  rw [step_of_performsCycle hperforms] at h
  exact ⟨cycleStep_took h, cycleStep_released ⟨hs, hc⟩ h⟩

end Sys2Proof.Machine
end

section
/-!
SUPPORT. Relabelling of tags commutes with a cycle (R356): with every operation, every stage, every stage procedure.
The permutation has to keep the tags that have a readiness bit.
-/
namespace Sys2Proof.Machine

/-! ## Relabelling and the updates of the state -/

section Updates

variable (σ : Equiv.Perm Nat)

/-- A change of one record that commutes with relabelling. -/
theorem map_relabel_modify {f f' : InstrRecord → InstrRecord} (hf : ∀ r, f' (r.relabel σ) = (f r).relabel σ)
    (recs : List InstrRecord) (j : Nat) :
    (recs.map (InstrRecord.relabel σ)).modify j f' = (recs.modify j f).map (InstrRecord.relabel σ) := by
  apply List.ext_getElem?
  intro m
  by_cases hm : j = m
  · subst hm
    simp [Option.map_map, Function.comp_def, hf]
  · simp [List.getElem?_modify_ne _ _ hm]

theorem State.relabel_updateRecord (s : State) (j : Nat) {f f' : InstrRecord → InstrRecord}
    (hf : ∀ r, f' (r.relabel σ) = (f r).relabel σ) :
    (s.relabel σ).updateRecord j f' = (s.updateRecord j f).relabel σ := by
  have hrecs := map_relabel_modify σ hf s.recs j
  rw [State.updateRecord, State.updateRecord]
  exact congrArg (fun recs => { s.relabel σ with recs := recs }) hrecs

theorem State.relabel_advanced (s : State) (st : Stage) (j : Nat) :
    (s.relabel σ).advanced st j = (s.advanced st j).relabel σ := by
  have hstamp : ∀ r : InstrRecord, (r.relabel σ).stamped s.cycle st = (r.stamped s.cycle st).relabel σ :=
    fun _ => rfl
  have hrecs := map_relabel_modify σ hstamp s.recs j
  exact congrArg (fun recs => { (s.relabel σ).advanced st j with recs := recs }) hrecs

theorem State.relabel_select (s : State) (st : Stage) (j : Nat) :
    (s.relabel σ).select st j = (s.select st j).relabel σ := rfl

theorem State.relabel_getElem?_recs (s : State) (j : Nat) :
    (s.relabel σ).recs[j]? = s.recs[j]?.map (InstrRecord.relabel σ) := List.getElem?_map

theorem cycleStart_relabel (s : State) : cycleStart (s.relabel σ) = (cycleStart s).relabel σ := by
  have hfree : s.freeList.map σ ++ s.pendingFree.map σ = (s.freeList ++ s.pendingFree).map σ :=
    List.map_append.symm
  exact congrArg (fun free => { (cycleStart s).relabel σ with freeList := free }) hfree

theorem cycleEnd_relabel (s : State) : cycleEnd (s.relabel σ) = (cycleEnd s).relabel σ := by
  have hretired : (s.relabel σ).nRetired = (s.relabel σ).progLen ↔ s.nRetired = s.progLen := Iff.rfl
  have hfires : (s.relabel σ).watchdogFires = s.watchdogFires := rfl
  unfold cycleEnd
  simp only [hretired, hfires]
  split
  next => rfl
  next => split <;> rfl

end Updates

/-! ## Relabelling and the operations on tags -/

/-- The permutation keeps the tags below `n`. -/
def KeepsTags (σ : Equiv.Perm Nat) (n : Nat) : Prop := ∀ p, σ p < n ↔ p < n

section Operations

variable {σ : Equiv.Perm Nat} {s : State}

/-- The readiness bit of a relabelled tag is that of the tag. -/
theorem State.relabel_specReady_getElem? (hσ : KeepsTags σ s.specReady.length) (p : Nat) :
    (s.relabel σ).specReady[σ p]? = s.specReady[p]? := by
  show ((List.range s.specReady.length).map fun q => s.specReady.getD (σ.symm q) false)[σ p]? = _
  rw [List.getElem?_map]
  by_cases hp : p < s.specReady.length
  · rw [List.getElem?_range ((hσ p).mpr hp)]
    simp [List.getD_eq_getElem?_getD, hp]
  · have hp' : ¬ σ p < s.specReady.length := fun h => hp ((hσ p).mp h)
    rw [List.getElem?_eq_none (by simpa using hp'), List.getElem?_eq_none (by simpa using hp)]
    rfl

theorem State.relabel_specReady_length : (s.relabel σ).specReady.length = s.specReady.length := by
  simp [State.relabel]

/-- Setting the bit of a relabelled tag sets the bit of the tag. -/
theorem State.relabel_specReady_set (hσ : KeepsTags σ s.specReady.length) (p : Nat) (b : Bool) :
    (s.relabel σ).specReady.set (σ p) b = ({ s with specReady := s.specReady.set p b }.relabel σ).specReady := by
  have hσ' : KeepsTags σ ({ s with specReady := s.specReady.set p b } : State).specReady.length := by
    rwa [List.length_set]
  apply List.ext_getElem?
  intro q
  obtain ⟨q, rfl⟩ := σ.surjective q
  rw [State.relabel_specReady_getElem? hσ', List.getElem?_set, List.getElem?_set,
    State.relabel_specReady_getElem? hσ, State.relabel_specReady_length]
  simp only [σ.apply_eq_iff_eq, hσ p]

/-- A snapshot with its tag renamed. -/
def Snapshot.relabel (σ : Equiv.Perm Nat) (c : Snapshot) : Snapshot := (c.1.map σ, c.2)

/-- The outcome of a renaming with its tags renamed. -/
def Renaming.relabel (σ : Equiv.Perm Nat) (n : Renaming) : Renaming :=
  ⟨n.state.relabel σ, n.newTag.map σ, n.oldTag.map σ⟩

theorem renameSource_relabel (hσ : KeepsTags σ s.specReady.length) (o : Operand) :
    (s.relabel σ).renameSource o = (s.renameSource o).map (Snapshot.relabel σ) := by
  cases o with
  | none => rfl
  | some a =>
    have hmap : (s.relabel σ).specMap[a]? = s.specMap[a]?.map σ := List.getElem?_map
    simp only [State.renameSource, hmap]
    cases s.specMap[a]? with
    | none => rfl
    | some p =>
      simp only [Option.map_some, State.relabel_specReady_getElem? hσ]
      cases s.specReady[p]? <;> rfl

theorem renameDestination_relabel (hσ : KeepsTags σ s.specReady.length) (o : Operand) :
    (s.relabel σ).renameDestination o = (s.renameDestination o).map (Renaming.relabel σ) := by
  cases o with
  | none => rfl
  | some a =>
    have hmap : (s.relabel σ).specMap[a]? = s.specMap[a]?.map σ := List.getElem?_map
    have hfree : (s.relabel σ).freeList = s.freeList.map σ := rfl
    simp only [State.renameDestination, hmap, hfree]
    cases hlist : s.freeList with
    | nil => rfl
    | cons t rest =>
      simp only [List.map_cons]
      cases s.specMap[a]? with
      | none => rfl
      | some old =>
        simp only [Option.map_some, State.relabel_specReady_length, hσ t]
        split
        next ht =>
          have hready := State.relabel_specReady_set hσ t false
          have hspec : (s.specMap.map σ).set a (σ t) = (s.specMap.set a t).map σ := List.map_set.symm
          simp only [Except.map, Renaming.relabel, hready]
          exact congrArg (fun m => Except.ok (Renaming.mk { s.relabel σ with
            freeList := rest.map σ
            specReady := ({ s with specReady := s.specReady.set t false }.relabel σ).specReady
            specMap := m } (some (σ t)) (some (σ old)))) hspec
        next => rfl

theorem allocate_relabel (j k : Nat) (p q : Option Nat) :
    (s.relabel σ).allocate j k (p.map σ) (q.map σ) = (s.allocate j k p q).map (State.relabel σ) := by
  have hslot : (s.relabel σ).robSlot (s.relabel σ).robCount = s.robSlot s.robCount := rfl
  have hlen : (s.relabel σ).rob.length = s.rob.length := List.length_map _
  simp only [State.allocate, hslot, hlen]
  split
  next =>
    have hrob : (s.rob.map (RobEntry.relabel σ)).set (s.robSlot s.robCount) (RobEntry.relabel σ ⟨j, p, q⟩)
        = (s.rob.set (s.robSlot s.robCount) ⟨j, p, q⟩).map (RobEntry.relabel σ) := List.map_set.symm
    exact congrArg (fun rob => Except.ok { s.relabel σ with
      rob := rob
      robCount := s.robCount + 1
      rs := s.rs.set k { busy := true, inst := some j } }) hrob
  next => rfl

theorem InstrRecord.relabel_wake (σ : Equiv.Perm Nat) (t : Nat) (r : InstrRecord) :
    (r.relabel σ).wake (σ t) = (r.wake t).relabel σ := by
  have htag : ∀ o : Option Nat, o.map σ = some (σ t) ↔ o = some t := fun o => by
    cases o <;> simp
  simp only [InstrRecord.wake, InstrRecord.relabel, htag]

theorem broadcast_relabel (o : Option Nat) : (s.relabel σ).broadcast (o.map σ) = (s.broadcast o).relabel σ := by
  have hwake : ∀ (t : Nat) (js : List Nat) (recs : List InstrRecord),
      wakeAll (σ t) js (recs.map (InstrRecord.relabel σ)) = (wakeAll t js recs).map (InstrRecord.relabel σ) := by
    intro t js
    induction js with
    | nil => intro recs; rfl
    | cons j js ih =>
      intro recs
      rw [wakeAll, wakeAll, map_relabel_modify σ (InstrRecord.relabel_wake σ t), ih]
  cases o with
  | none => rfl
  | some t => exact congrArg (fun recs => { s.relabel σ with recs := recs }) (hwake t s.heldInstrs s.recs)

theorem markReady_relabel (hσ : KeepsTags σ s.specReady.length) (o : Option Nat) :
    (s.relabel σ).markReady (o.map σ) = (s.markReady o).map (State.relabel σ) := by
  cases o with
  | none => rfl
  | some p =>
    simp only [Option.map_some, State.markReady, State.relabel_specReady_length, hσ p]
    split
    next =>
      exact congrArg (fun ready => Except.ok { s.relabel σ with specReady := ready })
        (State.relabel_specReady_set hσ p true)
    next => rfl

theorem commit_relabel (d : Operand) (e : RobEntry) :
    (s.relabel σ).commit d (e.relabel σ) = (s.commit d e).map (State.relabel σ) := by
  cases d with
  | none => rfl
  | some a =>
    have hnew : (e.relabel σ).newTag = e.newTag.map σ := rfl
    have hold : (e.relabel σ).oldTag = e.oldTag.map σ := rfl
    have hlen : (s.relabel σ).archMap.length = s.archMap.length := List.length_map _
    simp only [State.commit, hnew, hold, hlen]
    cases e.newTag with
    | none => rfl
    | some t =>
      cases e.oldTag with
      | none => rfl
      | some old =>
        simp only [Option.map_some]
        split
        next =>
          have harch : (s.archMap.map σ).set a (σ t) = (s.archMap.set a t).map σ := List.map_set.symm
          have hpending : s.pendingFree.map σ ++ [σ old] = (s.pendingFree ++ [old]).map σ := by simp
          exact congrArg₂ (fun arch pending => Except.ok { s.relabel σ with
            archMap := arch, pendingFree := pending }) harch hpending
        next => rfl

end Operations

/-! ## Relabelling and the stages -/

section Stages

variable {σ : Equiv.Perm Nat} {s : State}

theorem fetchStage_relabel (j : Nat) : fetchStage j (s.relabel σ) = relabelResult σ (fetchStage j s) := by
  have hfull : (s.relabel σ).fqFull = s.fqFull := rfl
  simp only [fetchStage, hfull]
  split
  next => rfl
  next =>
    simp only [relabelResult]
    rw [← State.relabel_advanced]
    rfl

theorem decodeStage_relabel (j : Nat) : decodeStage j (s.relabel σ) = relabelResult σ (decodeStage j s) := by
  have hfull : (s.relabel σ).dqFull = s.dqFull := rfl
  simp only [decodeStage, hfull]
  split
  next => rfl
  next =>
    simp only [relabelResult]
    rw [← State.relabel_advanced]
    rfl

theorem dispatchStage_relabel (hσ : KeepsTags σ s.specReady.length) (kind : Kind) (d a b : Operand) (j : Nat) :
    dispatchStage kind d a b j (s.relabel σ) = relabelResult σ (dispatchStage kind d a b j s) := by
  have hstation : (s.relabel σ).dispatchStation kind d = s.dispatchStation kind d := by
    have hempty : (s.relabel σ).freeList.isEmpty = s.freeList.isEmpty := List.isEmpty_map
    simp only [State.dispatchStation, hempty]
    rfl
  simp only [dispatchStage, hstation, renameSource_relabel hσ, renameDestination_relabel hσ]
  cases s.dispatchStation kind d with
  | none => rfl
  | some k =>
    cases s.renameSource a with
    | error f => rfl
    | ok src1 =>
      cases s.renameSource b with
      | error f => rfl
      | ok src2 =>
        cases s.renameDestination d with
        | error f => rfl
        | ok n =>
          simp only [Except.map, Renaming.relabel, allocate_relabel]
          cases n.state.allocate j k n.newTag n.oldTag with
          | error f => rfl
          | ok t =>
            simp only [relabelResult]
            rw [← State.relabel_advanced, ← State.relabel_updateRecord σ _ j (fun r => ?_)]
            · rfl
            · rfl

theorem issueStage_relabel (a b : Operand) (j : Nat) :
    issueStage a b j (s.relabel σ) = relabelResult σ (issueStage a b j s) := by
  have hfull : (s.relabel σ).xqFull = s.xqFull := rfl
  have hready : ∀ r : InstrRecord, readyToExecute a b (r.relabel σ) = readyToExecute a b r := fun _ => rfl
  have hissued : ∀ r : InstrRecord, (r.relabel σ).issued = r.issued := fun _ => rfl
  simp only [issueStage, State.relabel_getElem?_recs, hfull]
  cases s.recs[j]? with
  | none => rfl
  | some r =>
    simp only [Option.map_some, hready, hissued]
    split
    next =>
      simp only [relabelResult]
      rw [← State.relabel_advanced, ← State.relabel_updateRecord σ _ j (fun r => ?_)]
      · rfl
      · rfl
    next => rfl

theorem executeStage_relabel (j : Nat) : executeStage j (s.relabel σ) = relabelResult σ (executeStage j s) := by
  have hfull : (s.relabel σ).cqFull = s.cqFull := rfl
  have hback : (s.recs[j]?.map (InstrRecord.relabel σ)).bind InstrRecord.rsIdx = s.recs[j]?.bind InstrRecord.rsIdx := by
    cases s.recs[j]? <;> rfl
  have htype : ∀ k, (s.relabel σ).stationType k = s.stationType k := fun _ => rfl
  simp only [executeStage, State.relabel_getElem?_recs, hfull, hback, htype]
  split
  next => rfl
  next =>
    cases s.recs[j]?.bind InstrRecord.rsIdx with
    | none => rfl
    | some k =>
      simp only
      cases s.stationType k with
      | none => rfl
      | some type =>
        simp only [relabelResult]
        rw [← State.relabel_advanced, ← State.relabel_updateRecord σ _ j (fun r => ?_)]
        · rfl
        · rfl

theorem completeStage_relabel (hσ : KeepsTags σ s.specReady.length) (j : Nat) :
    completeStage j (s.relabel σ) = relabelResult σ (completeStage j s) := by
  simp only [completeStage, State.relabel_getElem?_recs]
  cases s.recs[j]? with
  | none => rfl
  | some r =>
    have hdue : (r.relabel σ).ts.execute + (r.relabel σ).lat ≤ (s.relabel σ).cycle
        ↔ r.ts.execute + r.lat ≤ s.cycle := Iff.rfl
    have hpd : (r.relabel σ).pd = r.pd.map σ := rfl
    have hσ' : KeepsTags σ (s.broadcast r.pd).specReady.length := by rwa [State.broadcast_specReady]
    simp only [Option.map_some, hdue, hpd, broadcast_relabel, markReady_relabel hσ']
    split
    next =>
      cases (s.broadcast r.pd).markReady r.pd with
      | error f => rfl
      | ok t =>
        simp only [Except.map, relabelResult]
        rw [← State.relabel_advanced, ← State.relabel_updateRecord σ _ j (fun r => ?_)]
        · rfl
        · rfl
    next => rfl

theorem retireStage_relabel (d : Operand) (j : Nat) :
    retireStage d j (s.relabel σ) = relabelResult σ (retireStage d j s) := by
  have hcount : (s.relabel σ).robCount = s.robCount := rfl
  have hentry : (s.relabel σ).rob[(s.relabel σ).robHead]? = s.rob[s.robHead]?.map (RobEntry.relabel σ) :=
    List.getElem?_map
  simp only [retireStage, hcount, hentry, State.relabel_getElem?_recs]
  split
  next => rfl
  next =>
    cases s.rob[s.robHead]? with
    | none => rfl
    | some e =>
      simp only [Option.map_some]
      cases s.recs[j]? with
      | none => rfl
      | some r =>
        have hdone : (r.relabel σ).completed = r.completed := rfl
        simp only [Option.map_some, hdone, commit_relabel]
        split
        next =>
          cases s.commit d e with
          | error f => rfl
          | ok t =>
            simp only [Except.map, relabelResult]
            rw [← State.relabel_advanced, ← State.relabel_updateRecord σ _ j (fun r => ?_)]
            · rfl
            · rfl
        next => rfl

/-- The meaning of an instruction commutes with relabelling. -/
theorem exec_relabel (hσ : KeepsTags σ s.specReady.length) (i : Instr) :
    exec i (s.relabel σ) = relabelResult σ (exec i s) := by
  have hactive : (s.relabel σ).active = s.active := rfl
  cases hs : s.active with
  | none =>
    rw [exec_of_idle i (hactive.trans hs), exec_of_idle i hs]
    rfl
  | some selection =>
    obtain ⟨st, j⟩ := selection
    have hs' := hactive.trans hs
    cases st with
    | fetch => rw [exec_fetch i hs', exec_fetch i hs, fetchStage_relabel]
    | decode => rw [exec_decode i hs', exec_decode i hs, decodeStage_relabel]
    | dispatch => rw [exec_dispatch i hs', exec_dispatch i hs, dispatchStage_relabel hσ]
    | issue => rw [exec_issue i hs', exec_issue i hs, issueStage_relabel]
    | execute => rw [exec_execute i hs', exec_execute i hs, executeStage_relabel]
    | complete => rw [exec_complete i hs', exec_complete i hs, completeStage_relabel hσ]
    | retire => rw [exec_retire i hs', exec_retire i hs, retireStage_relabel]

/-- No stage changes how many tags have a readiness bit. -/
theorem exec_specReady_length {i : Instr} {t : State} (h : exec i s = .next t) :
    t.specReady.length = s.specReady.length := by
  cases hactive : s.active with
  | none =>
    rw [exec_of_idle i hactive] at h
    cases h
    rfl
  | some selection =>
    obtain ⟨st, j⟩ := selection
    cases st with
    | fetch => rw [exec_fetch_writes hactive h]
    | decode => rw [exec_decode_writes hactive h]
    | issue => rw [exec_issue_writes hactive h]
    | execute => rw [exec_execute_writes hactive h]
    | retire => rw [exec_retire_writes hactive h]
    | dispatch =>
      rw [exec_dispatch i hactive] at h
      obtain ⟨-, rfl⟩ | ⟨k, src1, src2, n, u, -, -, -, hn, hu, rfl⟩ := dispatchStage_next h
      · rfl
      · obtain ⟨-, rfl⟩ := State.allocate_eq_ok.mp hu
        obtain ⟨-, rfl⟩ | ⟨a, p, rest, old, -, -, -, -, rfl⟩ := State.renameDestination_eq_ok.mp hn <;> simp
    | complete =>
      rw [exec_complete i hactive] at h
      obtain ⟨r, -, ⟨-, rfl⟩ | ⟨u, -, hu, rfl⟩⟩ := completeStage_next h
      · rfl
      · obtain ⟨-, rfl⟩ | ⟨p, -, -, rfl⟩ := State.markReady_eq_ok.mp hu <;> simp

end Stages

end Sys2Proof.Machine
end

section
/-!
SUPPORT. Relabelling commutes with the stage procedures, the cycle and the step, and the timestamps of a run do not
depend on the order of the free list (R356).
-/
namespace Sys2Proof.Machine

/-! ## Procedures that commute with relabelling -/

/-- At `s`, `f` commutes with relabelling and leaves `n` readiness bits. -/
structure CommutesAt (σ : Equiv.Perm Nat) (n : Nat) (f : State → Result) (s : State) : Prop where
  relabel : f (s.relabel σ) = relabelResult σ (f s)
  length : ∀ t, f s = .next t → t.specReady.length = n

/-- In every state with `n` readiness bits. -/
def Commutes (σ : Equiv.Perm Nat) (n : Nat) (f : State → Result) : Prop :=
  ∀ s, s.specReady.length = n → CommutesAt σ n f s

section Closure

variable {σ : Equiv.Perm Nat} {n : Nat} {f g : State → Result} {s : State}

/-- At a state where `f` is `g`. -/
theorem CommutesAt.congr (h : CommutesAt σ n g s) (hs : f s = g s) (hs' : f (s.relabel σ) = g (s.relabel σ)) :
    CommutesAt σ n f s :=
  ⟨by rw [hs, hs', h.relabel], fun t ht => h.length t (hs ▸ ht)⟩

theorem CommutesAt.next (hs : s.specReady.length = n) : CommutesAt σ n .next s := by
  refine ⟨rfl, fun t ht => ?_⟩
  cases ht
  exact hs

theorem CommutesAt.fault (r : Fault) : CommutesAt σ n (fun _ => .fault r) s := ⟨rfl, fun _ ht => by cases ht⟩

theorem CommutesAt.refused (r : Refusal) : CommutesAt σ n (fun _ => .refused r) s := ⟨rfl, fun _ ht => by cases ht⟩

theorem Commutes.deselect (hf : Commutes σ n f) : Commutes σ n fun s => f s.deselect :=
  fun s hs => ⟨(hf s.deselect hs).relabel, (hf s.deselect hs).length⟩

/-- What follows a meaning (R140). -/
theorem Commutes.ifIdle (hf : Commutes σ n f) (hg : Commutes σ n g) :
    Commutes σ n fun s => if s.active.isNone then f s else g s.deselect := by
  intro s hs
  have hsame : (s.relabel σ).active = s.active := rfl
  cases hactive : s.active with
  | none => exact (hf s hs).congr (by simp [hactive]) (by simp [hsame, hactive])
  | some selection => exact (hg.deselect s hs).congr (by simp [hactive]) (by simp [hsame, hactive])

theorem Commutes.andThen (hf : Commutes σ n f) (hg : Commutes σ n g) :
    Commutes σ n fun s => andThen (f s) g := by
  intro s hs
  have hfs := hf s hs
  refine ⟨?_, fun t ht => ?_⟩
  · rw [hfs.relabel]
    cases hstep : f s with
    | next t => exact (hg t (hfs.length t hstep)).relabel
    | fault r => rfl
    | refused r => rfl
  · obtain ⟨u, hu, hk⟩ := andThen_eq_next.mp ht
    exact (hg u (hfs.length u hu)).length t hk

theorem Commutes.orStall (hf : Commutes σ n f) (hg : Commutes σ n g) :
    Commutes σ n fun s => orStall (f s) g :=
  hf.andThen (hg.ifIdle fun _ hs => .next hs)

end Closure

/-! ## The stage procedures -/

section Procedures

variable {σ : Equiv.Perm Nat} {n : Nat}

theorem present_commutes (hσ : KeepsTags σ n) (st : Stage) (j : Nat) : Commutes σ n (present st j) := by
  intro s hs
  have hrecs := State.relabel_getElem?_recs σ s j
  subst hs
  cases hr : s.recs[j]? with
  | none => exact (CommutesAt.fault .noInstruction).congr (by simp [present, hr]) (by simp [present, hrecs, hr])
  | some r =>
    refine ⟨?_, fun t ht => ?_⟩
    · have hinstr : (r.relabel σ).instr = r.instr := rfl
      simp only [present, hrecs, hr, Option.map_some, hinstr, State.relabel_select]
      exact exec_relabel (show KeepsTags σ (s.select st j).specReady.length from hσ) r.instr
    · simp only [present, hr] at ht
      have hlen := exec_specReady_length ht
      exact hlen

theorem retireLoop_commutes (hσ : KeepsTags σ n) (m : Nat) : Commutes σ n (retireLoop m) := by
  induction m with
  | zero => exact fun s hs => .next hs
  | succ m ih =>
    intro s hs
    have hcount : (s.relabel σ).robCount = s.robCount := rfl
    have hentry : (s.relabel σ).rob[(s.relabel σ).robHead]? = s.rob[s.robHead]?.map (RobEntry.relabel σ) :=
      List.getElem?_map
    by_cases hempty : s.robCount = 0
    · exact (CommutesAt.next hs).congr (by simp [retireLoop, hempty]) (by simp [retireLoop, hcount, hempty])
    · cases he : s.rob[s.robHead]? with
      | none =>
        exact (CommutesAt.fault .noRobEntry).congr (by simp [retireLoop, hempty, he])
          (by simp [retireLoop, hcount, hempty, hentry, he])
      | some e =>
        exact ((present_commutes hσ .retire e.inst).orStall ih s hs).congr (by simp [retireLoop, hempty, he])
          (by simp [retireLoop, hcount, hempty, hentry, he, RobEntry.relabel])

theorem completeScan_commutes (hσ : KeepsTags σ n) (js : List Nat) : Commutes σ n (completeScan js) := by
  induction js with
  | nil => exact fun s hs => .next hs
  | cons j js ih => exact (present_commutes hσ .complete j).andThen ih.deselect

theorem executeLoop_commutes (hσ : KeepsTags σ n) (m : Nat) : Commutes σ n (executeLoop m) := by
  induction m with
  | zero => exact fun s hs => .next hs
  | succ m ih =>
    intro s hs
    have hsame : (s.relabel σ).xq = s.xq := rfl
    cases hxq : s.xq with
    | nil => exact (CommutesAt.next hs).congr (by simp [executeLoop, hxq]) (by simp [executeLoop, hsame, hxq])
    | cons j rest =>
      exact ((present_commutes hσ .execute j).orStall ih s hs).congr (by simp [executeLoop, hxq])
        (by simp [executeLoop, hsame, hxq])

theorem issueScan_commutes (hσ : KeepsTags σ n) (ks : List Nat) (m : Nat) : Commutes σ n (issueScan ks m) := by
  induction ks generalizing m with
  | nil => exact fun s hs => .next hs
  | cons k ks ih =>
    intro s hs
    have hfull : (s.relabel σ).xqFull = s.xqFull := rfl
    have hstations : (s.relabel σ).rs = s.rs := rfl
    by_cases hcap : (decide (m = 0) || s.xqFull) = true
    · exact (CommutesAt.next hs).congr (by simp only [issueScan, hcap, if_true])
        (by simp only [issueScan, hfull, hcap, if_true])
    · cases hheld : s.rs[k]?.bind Station.held with
      | none =>
        exact (ih m s hs).congr (by simp only [issueScan, hcap, hheld]; rfl)
          (by simp only [issueScan, hfull, hstations, hcap, hheld]; rfl)
      | some j =>
        exact ((present_commutes hσ .issue j).andThen ((ih (m - 1)).ifIdle (ih m)) s hs).congr
          (by simp only [issueScan, hcap, hheld]; rfl)
          (by simp only [issueScan, hfull, hstations, hcap, hheld]; rfl)

theorem dispatchLoop_commutes (hσ : KeepsTags σ n) (m : Nat) : Commutes σ n (dispatchLoop m) := by
  induction m with
  | zero => exact fun s hs => .next hs
  | succ m ih =>
    intro s hs
    have hsame : (s.relabel σ).dq = s.dq := rfl
    cases hdq : s.dq with
    | nil => exact (CommutesAt.next hs).congr (by simp [dispatchLoop, hdq]) (by simp [dispatchLoop, hsame, hdq])
    | cons j rest =>
      exact ((present_commutes hσ .dispatch j).orStall ih s hs).congr (by simp [dispatchLoop, hdq])
        (by simp [dispatchLoop, hsame, hdq])

theorem decodeLoop_commutes (hσ : KeepsTags σ n) (m : Nat) : Commutes σ n (decodeLoop m) := by
  induction m with
  | zero => exact fun s hs => .next hs
  | succ m ih =>
    intro s hs
    have hsame : (s.relabel σ).fq = s.fq := rfl
    cases hfq : s.fq with
    | nil => exact (CommutesAt.next hs).congr (by simp [decodeLoop, hfq]) (by simp [decodeLoop, hsame, hfq])
    | cons j rest =>
      exact ((present_commutes hσ .decode j).orStall ih s hs).congr (by simp [decodeLoop, hfq])
        (by simp [decodeLoop, hsame, hfq])

theorem presentFetched_commutes (hσ : KeepsTags σ n) : Commutes σ n presentFetched := by
  intro s hs
  have hread : ∀ i, (s.relabel σ).progRead i = s.progRead i := fun _ => rfl
  have hptr : (s.relabel σ).fetchPtr = s.fetchPtr := rfl
  have hcfg : (s.relabel σ).cfg = s.cfg := rfl
  cases hw : s.progRead s.fetchPtr with
  | none =>
    exact (CommutesAt.fault .noInstruction).congr (by simp [presentFetched, hw])
      (by simp [presentFetched, hread, hptr, hw])
  | some w =>
    cases hi : decode s.cfg.numArch w with
    | error why =>
      exact (CommutesAt.refused (.refusedDescriptor why)).congr (by simp [presentFetched, hw, hi])
        (by simp [presentFetched, hread, hptr, hcfg, hw, hi])
    | ok i =>
      subst hs
      have hmeaning : CommutesAt σ s.specReady.length (fun u => exec i (u.select .fetch s.fetchPtr)) s := by
        refine ⟨?_, fun t ht => ?_⟩
        · rw [State.relabel_select]
          exact exec_relabel (show KeepsTags σ (s.select .fetch s.fetchPtr).specReady.length from hσ) i
        · have hlen := exec_specReady_length ht
          exact hlen
      exact hmeaning.congr (by simp [presentFetched, hw, hi]) (by simp [presentFetched, hread, hptr, hcfg, hw, hi])

theorem fetchLoop_commutes (hσ : KeepsTags σ n) (m : Nat) : Commutes σ n (fetchLoop m) := by
  induction m with
  | zero => exact fun s hs => .next hs
  | succ m ih =>
    intro s hs
    have hlt : (s.relabel σ).fetchPtr < (s.relabel σ).progLen ↔ s.fetchPtr < s.progLen := Iff.rfl
    by_cases hmore : s.fetchPtr < s.progLen
    · exact ((presentFetched_commutes hσ).orStall ih s hs).congr (by simp only [fetchLoop, hmore, if_true])
        (by simp only [fetchLoop, hlt, hmore, if_true])
    · exact (CommutesAt.next hs).congr (by simp only [fetchLoop, hmore, if_false])
        (by simp only [fetchLoop, hlt, hmore, if_false])

/-! ## The cycle and the run -/

theorem cycleStep_commutes (hσ : KeepsTags σ n) : Commutes σ n cycleStep := by
  have hretire : Commutes σ n fun s => retireLoop s.cfg.width (cycleStart s) := fun s hs =>
    ⟨by rw [cycleStart_relabel]; exact (retireLoop_commutes hσ s.cfg.width (cycleStart s) hs).relabel,
      (retireLoop_commutes hσ s.cfg.width (cycleStart s) hs).length⟩
  have hcomplete : Commutes σ n fun s => completeScan s.candidates s := fun s hs =>
    (completeScan_commutes hσ s.candidates s hs).congr rfl rfl
  have hexecute : Commutes σ n fun s => executeLoop s.cfg.width s := fun s hs =>
    (executeLoop_commutes hσ s.cfg.width s hs).congr rfl rfl
  have hissue : Commutes σ n fun s => issueScan s.scanOrder s.cfg.width s := fun s hs =>
    (issueScan_commutes hσ s.scanOrder s.cfg.width s hs).congr rfl rfl
  have hdispatch : Commutes σ n fun s => dispatchLoop s.cfg.width s := fun s hs =>
    (dispatchLoop_commutes hσ s.cfg.width s hs).congr rfl rfl
  have hdecode : Commutes σ n fun s => decodeLoop s.cfg.width s := fun s hs =>
    (decodeLoop_commutes hσ s.cfg.width s hs).congr rfl rfl
  have hfetch : Commutes σ n fun s => fetchLoop s.cfg.width s := fun s hs =>
    (fetchLoop_commutes hσ s.cfg.width s hs).congr rfl rfl
  have hend : Commutes σ n fun s => .next (cycleEnd s) := fun s hs => by
    refine ⟨by rw [cycleEnd_relabel]; rfl, fun t ht => ?_⟩
    cases ht
    rwa [cycleEnd_specReady]
  have hbefore : Commutes σ n stagesBeforeFetch :=
    hretire.andThen (hcomplete.andThen (hexecute.andThen (hissue.andThen (hdispatch.andThen hdecode))))
  exact hbefore.andThen (hfetch.andThen hend)

/-- A step of an admitted block that is not held in reset commutes with relabelling (R356). -/
theorem step_relabel (hσ : KeepsTags σ n) {s t : State} (hs : s.specReady.length = n) (hrst : s.rst = false)
    (h : step s = .next t) :
    step (s.relabel σ) = .next (t.relabel σ) ∧ t.specReady.length = n ∧ t.rst = false := by
  obtain ⟨hadmitted, ⟨hreset, -⟩ | ⟨-, hhalted, rfl⟩ | ⟨-, hrunning, hcycle⟩⟩ := step_eq_next.mp h
  · rw [hrst] at hreset
    cases hreset
  · exact ⟨step_eq_next.mpr ⟨hadmitted, .inr (.inl ⟨hrst, hhalted, rfl⟩)⟩, hs, hrst⟩
  · have hcommutes := cycleStep_commutes hσ s hs
    obtain ⟨u, hu, rfl⟩ := cycleStep_fixed hcycle
    refine ⟨step_eq_next.mpr ⟨hadmitted, .inr (.inr ⟨hrst, hrunning, ?_⟩)⟩, hcommutes.length _ hcycle, ?_⟩
    · rw [hcommutes.relabel, hcycle]
      rfl
    · rw [cycleEnd_rst, hu.rst, hrst]

theorem State.run_succ {k : Nat} {s t : State} :
    State.run (k + 1) s = .next t ↔ ∃ u, step s = .next u ∧ State.run k u = .next t := by
  have hstep : State.run (k + 1) s = andThen (step s) (State.run k) := by
    simp only [State.run, Host.Core.run, andThen, Sys2Proof.core]
    cases step s <;> rfl
  rw [hstep, andThen_eq_next]

/-- A run of the relabelled state is the relabelled run (R356). -/
theorem run_relabel (hσ : KeepsTags σ n) {k : Nat} {s t : State} (hs : s.specReady.length = n)
    (hrst : s.rst = false) (h : State.run k s = .next t) : State.run k (s.relabel σ) = .next (t.relabel σ) := by
  induction k generalizing s with
  | zero =>
    cases h
    rfl
  | succ k ih =>
    obtain ⟨u, hu, hk⟩ := State.run_succ.mp h
    obtain ⟨hstep, hlen, hrst'⟩ := step_relabel hσ hs hrst hu
    exact State.run_succ.mpr ⟨u.relabel σ, hstep, ih hlen hrst' hk⟩

end Procedures

/-! ## The order of the free list -/

/-- Two orders of one list differ by a permutation that fixes everything outside it. -/
theorem exists_perm_of_list_perm {l l' : List Nat} (h : l.Perm l') (hnodup : l.Nodup) :
    ∃ σ : Equiv.Perm Nat, l.map σ = l' ∧ ∀ p ∉ l, σ p = p := by
  induction h with
  | nil => exact ⟨1, rfl, fun _ _ => rfl⟩
  | cons x _ ih =>
    obtain ⟨hx, hnodup⟩ := List.nodup_cons.mp hnodup
    obtain ⟨σ, hmap, hfix⟩ := ih hnodup
    refine ⟨σ, by rw [List.map_cons, hmap, hfix x hx], fun p hp => hfix p fun hmem => ?_⟩
    exact hp (List.mem_cons_of_mem x hmem)
  | swap x y l =>
    obtain ⟨hy, hnodup⟩ := List.nodup_cons.mp hnodup
    obtain ⟨hx, -⟩ := List.nodup_cons.mp hnodup
    have hfix : ∀ p, p ≠ x → p ≠ y → Equiv.swap x y p = p := fun p => Equiv.swap_apply_of_ne_of_ne
    refine ⟨Equiv.swap x y, ?_, fun p hp => hfix p ?_ ?_⟩
    · have hrest : l.map (Equiv.swap x y) = l := by
        refine (List.map_congr_left fun p hp => hfix p ?_ ?_).trans (List.map_id l)
        · rintro rfl
          exact hx hp
        · rintro rfl
          exact hy (List.mem_cons_of_mem _ hp)
      rw [List.map_cons, List.map_cons, Equiv.swap_apply_right, Equiv.swap_apply_left, hrest]
    · rintro rfl
      simp at hp
    · rintro rfl
      simp at hp
  | trans h1 _ ih1 ih2 =>
    obtain ⟨σ, hσ, hσfix⟩ := ih1 hnodup
    obtain ⟨τ, hτ, hτfix⟩ := ih2 (h1.nodup_iff.mp hnodup)
    refine ⟨σ.trans τ, ?_, fun p hp => ?_⟩
    · rw [← hτ, ← hσ, List.map_map]
      rfl
    · rw [Equiv.trans_apply, hσfix p hp]
      exact hτfix p fun hmem => hp (h1.mem_iff.mpr hmem)

/-- The reset state with another order of the free list is a relabelling of the reset state. -/
theorem ofReset_relabel (c : Config) (n : Nat) (prog : Memory) (is : List Instr) {order : List Nat}
    (h : order.Perm (State.ofReset c n prog is).freeList) :
    ∃ σ : Equiv.Perm Nat, KeepsTags σ c.numPhys
      ∧ { State.ofReset c n prog is with freeList := order } = (State.ofReset c n prog is).relabel σ := by
  have hfree : (State.ofReset c n prog is).freeList = List.range' c.numArch (c.numPhys - c.numArch) := rfl
  obtain ⟨σ, hmap, hfix⟩ := exists_perm_of_list_perm h.symm (hfree ▸ List.nodup_range')
  rw [hfree] at h hmap hfix
  have hmem : ∀ p, σ p ∈ List.range' c.numArch (c.numPhys - c.numArch)
      ↔ p ∈ List.range' c.numArch (c.numPhys - c.numArch) := fun p => by
    rw [← h.mem_iff, ← hmap, List.mem_map_of_injective σ.injective]
  have hlow : ∀ p < c.numArch, σ p = p := fun p hp => hfix p (by rw [List.mem_range'_1]; omega)
  have hkeeps : KeepsTags σ c.numPhys := by
    intro p
    by_cases hp : p ∈ List.range' c.numArch (c.numPhys - c.numArch)
    · have hσp := (hmem p).mpr hp
      rw [List.mem_range'_1] at hp hσp
      omega
    · rw [hfix p hp]
  refine ⟨σ, hkeeps, ?_⟩
  have hids : (List.range c.numArch).map σ = List.range c.numArch :=
    (List.map_congr_left fun p hp => hlow p (List.mem_range.mp hp)).trans (List.map_id _)
  have hrecs : (is.map InstrRecord.fresh).map (InstrRecord.relabel σ) = is.map InstrRecord.fresh := by
    rw [List.map_map]
    rfl
  have hrob : (List.replicate c.robSize RobEntry.initial).map (RobEntry.relabel σ)
      = List.replicate c.robSize RobEntry.initial := List.map_replicate
  have hready : ((State.ofReset c n prog is).relabel σ).specReady = readyAtReset c := by
    apply List.ext_getElem?
    intro q
    obtain ⟨p, rfl⟩ := σ.surjective q
    have hlen : (State.ofReset c n prog is).specReady.length = c.numPhys := by simp [readyAtReset]
    rw [State.relabel_specReady_getElem? (hlen.symm ▸ hkeeps)]
    show (readyAtReset c)[p]? = (readyAtReset c)[σ p]?
    by_cases hp : p ∈ List.range' c.numArch (c.numPhys - c.numArch)
    · have hσp := (hmem p).mpr hp
      rw [List.mem_range'_1] at hp hσp
      rw [readyAtReset, List.getElem?_map, List.getElem?_map, List.getElem?_range (by omega),
        List.getElem?_range (by omega)]
      simp [Nat.not_lt.mpr hp.1, Nat.not_lt.mpr hσp.1]
    · rw [hfix p hp]
  have hstate : (State.ofReset c n prog is).relabel σ = { State.ofReset c n prog is with
      recs := (is.map InstrRecord.fresh).map (InstrRecord.relabel σ)
      specMap := (List.range c.numArch).map σ
      specReady := ((State.ofReset c n prog is).relabel σ).specReady
      archMap := (List.range c.numArch).map σ
      freeList := (List.range' c.numArch (c.numPhys - c.numArch)).map σ
      rob := (List.replicate c.robSize RobEntry.initial).map (RobEntry.relabel σ) } := rfl
  rw [hstate, hready, hids, hrecs, hrob, hmap]
  rfl

/-- A loaded block is in the reset state of its configuration and program. -/
theorem State.load_eq_ofReset (c : Config) (ws : List Word) :
    ∃ n prog is, State.load c ws = State.ofReset c n prog is := by
  unfold State.load State.construct
  split
  next is _ => exact ⟨_, _, is, rfl⟩
  next => exact ⟨_, _, [], rfl⟩

/-- Settles O59: another order of the free list is a relabelling of the tags, which a run carries along and no
timestamp shows. -/
theorem reportIgnoresFreeListOrder : Obligations.ReportIgnoresFreeListOrder := by
  intro c ws order k t horder hrun
  obtain ⟨n, prog, is, hload⟩ := State.load_eq_ofReset c ws
  rw [hload] at horder hrun ⊢
  obtain ⟨σ, hσ, hrelabel⟩ := ofReset_relabel c n prog is horder
  have hlen : (State.ofReset c n prog is).specReady.length = c.numPhys := by simp [readyAtReset]
  rw [hrelabel]
  refine ⟨t.relabel σ, run_relabel hσ hlen rfl hrun, rfl, rfl, ?_⟩
  show (t.recs.map (InstrRecord.relabel σ)).map InstrRecord.ts = _
  rw [List.map_map]
  rfl

end Sys2Proof.Machine
end

section
/-!
SUPPORT. The program store: what `ProgRead` reads after program load, and that no cycle changes it (R80, R81, R83,
R89).
-/
namespace Sys2Proof.Machine

/-! ## After program load -/

/-- The descriptor `k` places after the first one of a stored program reads back: the later descriptors stand above
it. -/
theorem Memory.readDescriptor_writeProgram {m : Memory} {i k : Nat} {ws : List Word} {w : Word} (hm : m.wf = true)
    (hw : ws[k]? = some w) : (m.writeProgram i ws).readDescriptor (i + k) = w := by
  induction ws generalizing m i k with
  | nil => cases hw
  | cons v ws ih =>
    rw [Memory.writeProgram]
    cases k with
    | zero =>
      obtain rfl : v = w := by simpa using hw
      exact (Memory.readDescriptor_writeProgram_below _ (i + 1) i ws (Nat.lt_add_one i)).trans
        (Memory.readDescriptor_writeDescriptor_same i v hm)
    | succ k =>
      rw [Nat.add_comm k, ← Nat.add_assoc]
      exact ih (Memory.wf_writeDescriptor i v hm) hw

/-- Construction leaves the image in the store as it is, also that of a refused program. -/
@[simp] theorem State.construct_prog (c : Config) (n : Nat) (prog : Memory) :
    (State.construct c n prog).prog = prog := by
  unfold State.construct
  split <;> rfl

@[simp] theorem State.construct_progLen (c : Config) (n : Nat) (prog : Memory) :
    (State.construct c n prog).progLen = n := by
  unfold State.construct
  split <;> rfl

@[simp] theorem State.load_prog (c : Config) (ws : List Word) :
    (State.load c ws).prog = Memory.writeProgram [] 0 ws := State.construct_prog ..

@[simp] theorem State.load_progLen (c : Config) (ws : List Word) : (State.load c ws).progLen = ws.length :=
  State.construct_progLen ..

/-- `ProgRead` answers nothing exactly from N on (R81). -/
theorem State.progRead_eq_none {s : State} {i : Nat} : s.progRead i = none ↔ s.progLen ≤ i := by
  simp [State.progRead]

/-- Settles O7: below N the stored descriptor reads back from the image, and from N on there is no word. -/
theorem programStoreHoldsProgram : Obligations.ProgramStoreHoldsProgram := by
  intro c ws i
  cases hw : ws[i]? with
  | none => exact State.progRead_eq_none.mpr (by simpa using hw)
  | some w =>
    obtain ⟨hi, -⟩ := List.getElem?_eq_some_iff.mp hw
    have hread : (Memory.writeProgram [] 0 ws).readDescriptor i = w := by
      simpa using Memory.readDescriptor_writeProgram (i := 0) Memory.wf_nil hw
    exact State.progRead_eq_some.mpr (by simpa using ⟨hi, hread⟩)

/-! ## In a cycle -/

/-- `ProgRead` depends on the store and on N alone. -/
theorem State.progRead_congr {s t : State} (hlen : t.progLen = s.progLen) (hprog : t.prog = s.prog) (i : Nat) :
    t.progRead i = s.progRead i := by
  simp only [State.progRead, hlen, hprog]

/-- Settles O33: no stage writes these fields, and the end of a cycle writes the cycle number and the status only. -/
theorem stepKeepsProgramAndConfiguration : Obligations.StepKeepsProgramAndConfiguration := by
  intro s t hs h
  obtain ⟨u, hfixed, rfl⟩ := cycleStep_fixed ((step_of_performsCycle hs).mp h)
  have hprog : (cycleEnd u).prog = s.prog := by rw [cycleEnd_prog, hfixed.prog]
  have hlen : (cycleEnd u).progLen = s.progLen := by rw [cycleEnd_progLen, hfixed.progLen]
  exact ⟨hprog, hlen, State.progRead_congr hlen hprog, by rw [cycleEnd_cfg, hfixed.cfg],
    by rw [cycleEnd_recs, hfixed.instrs]⟩

end Sys2Proof.Machine
end

section
/-!
SUPPORT. The descriptor word as the concatenation of its eight fields (R100), what `encode` puts into them, and
the agreement of the decoder and the encoder (R103, R109).
-/
namespace Sys2Proof

/-! ## A word is its eight fields -/

/-- The word with the given fields, as the pattern string of R100 writes it. -/
def wordOfFields (kind : BitVec 2) (v1 v2 vd : Bool) (res : BitVec 3) (f1 f2 fd : BitVec 8) : Word :=
  fd ++ f2 ++ f1 ++ res ++ BitVec.ofBool vd ++ BitVec.ofBool v2 ++ BitVec.ofBool v1 ++ kind

section Fields

variable (kind : BitVec 2) (v1 v2 vd : Bool) (res : BitVec 3) (f1 f2 fd : BitVec 8)

@[simp] theorem kindField_wordOfFields : kindField (wordOfFields kind v1 v2 vd res f1 f2 fd) = kind := by
  rw [kindField, wordOfFields, BitVec.extractLsb'_append_eq_right]

@[simp] theorem src1Valid_wordOfFields : src1Valid (wordOfFields kind v1 v2 vd res f1 f2 fd) = v1 := by
  simp only [src1Valid, wordOfFields, BitVec.getLsbD_append]
  simp

@[simp] theorem src2Valid_wordOfFields : src2Valid (wordOfFields kind v1 v2 vd res f1 f2 fd) = v2 := by
  simp only [src2Valid, wordOfFields, BitVec.getLsbD_append]
  simp

@[simp] theorem dstValid_wordOfFields : dstValid (wordOfFields kind v1 v2 vd res f1 f2 fd) = vd := by
  simp only [dstValid, wordOfFields, BitVec.getLsbD_append]
  simp

@[simp] theorem reservedField_wordOfFields :
    reservedField (wordOfFields kind v1 v2 vd res f1 f2 fd) = res := by
  rw [reservedField, wordOfFields]
  repeat rw [BitVec.extractLsb'_append_eq_of_le (by decide)]
  exact BitVec.extractLsb'_append_eq_right

@[simp] theorem src1Field_wordOfFields : src1Field (wordOfFields kind v1 v2 vd res f1 f2 fd) = f1 := by
  rw [src1Field, wordOfFields]
  repeat rw [BitVec.extractLsb'_append_eq_of_le (by decide)]
  exact BitVec.extractLsb'_append_eq_right

@[simp] theorem src2Field_wordOfFields : src2Field (wordOfFields kind v1 v2 vd res f1 f2 fd) = f2 := by
  rw [src2Field, wordOfFields]
  repeat rw [BitVec.extractLsb'_append_eq_of_le (by decide)]
  exact BitVec.extractLsb'_append_eq_right

@[simp] theorem dstField_wordOfFields : dstField (wordOfFields kind v1 v2 vd res f1 f2 fd) = fd := by
  rw [dstField, wordOfFields]
  repeat rw [BitVec.extractLsb'_append_eq_of_le (by decide)]
  exact BitVec.extractLsb'_eq_self

/-- R109 builds the word by OR, which goes field by field. -/
theorem wordOfFields_or (kind' : BitVec 2) (v1' v2' vd' : Bool) (res' : BitVec 3) (f1' f2' fd' : BitVec 8) :
    wordOfFields kind v1 v2 vd res f1 f2 fd ||| wordOfFields kind' v1' v2' vd' res' f1' f2' fd'
      = wordOfFields (kind ||| kind') (v1 || v1') (v2 || v2') (vd || vd') (res ||| res') (f1 ||| f1')
          (f2 ||| f2') (fd ||| fd') := by
  unfold wordOfFields
  repeat rw [BitVec.or_append]
  simp only [BitVec.ofBool_or_ofBool]

end Fields

/-- The eight fields cover the word. -/
theorem wordOfFields_fields (w : Word) :
    wordOfFields (kindField w) (src1Valid w) (src2Valid w) (dstValid w) (reservedField w) (src1Field w)
      (src2Field w) (dstField w) = w := by
  have hbit (k : Nat) : BitVec.ofBool (w.getLsbD k) = w.extractLsb' k 1 := by
    apply BitVec.eq_of_getLsbD_eq
    intro m hm
    obtain rfl : m = 0 := by omega
    simp
  simp only [wordOfFields, src1Valid, src2Valid, dstValid, hbit, kindField, reservedField, src1Field,
    src2Field, dstField, BitVec.extractLsb'_append_extractLsb'_eq_extractLsb']
  exact BitVec.extractLsb'_eq_self

/-! ## The fields of an encoded instruction -/

/-- What the KIND field holds for a kind (R101). -/
def Kind.field : Kind → BitVec 2
  | .alu => 0#2
  | .load => 1#2
  | .store => 2#2

/-- What a register field holds for an operand: its index, or zeros where it is absent (R102, R105). -/
def Operand.field : Operand → BitVec 8
  | none => 0#8
  | some n => BitVec.ofNat 8 n

theorem kindCode_eq_wordOfFields (k : Kind) :
    kindCode k = wordOfFields k.field false false false 0#3 0#8 0#8 0#8 := by
  cases k <;> rfl

section Shifts

variable {n : Nat}

/-- A register index of 8 bits, shifted to the field S1, stays inside it. -/
theorem shiftLeft_eight_eq_wordOfFields (hn : n < 256) : BitVec.ofNat 32 n <<< 8
    = wordOfFields 0#2 false false false 0#3 (BitVec.ofNat 8 n) 0#8 0#8 := by
  apply BitVec.eq_of_toNat_eq
  simp only [wordOfFields, BitVec.toNat_append, BitVec.toNat_shiftLeft, BitVec.toNat_ofNat, Nat.shiftLeft_eq]
  simp
  omega

/-- The same for S2. -/
theorem shiftLeft_sixteen_eq_wordOfFields (hn : n < 256) : BitVec.ofNat 32 n <<< 16
    = wordOfFields 0#2 false false false 0#3 0#8 (BitVec.ofNat 8 n) 0#8 := by
  apply BitVec.eq_of_toNat_eq
  simp only [wordOfFields, BitVec.toNat_append, BitVec.toNat_shiftLeft, BitVec.toNat_ofNat, Nat.shiftLeft_eq]
  simp
  omega

/-- The same for D, the highest field: bits above it fall off the word. -/
theorem shiftLeft_twentyFour_eq_wordOfFields : BitVec.ofNat 32 n <<< 24
    = wordOfFields 0#2 false false false 0#3 0#8 0#8 (BitVec.ofNat 8 n) := by
  apply BitVec.eq_of_toNat_eq
  simp only [wordOfFields, BitVec.toNat_append, BitVec.toNat_shiftLeft, BitVec.toNat_ofNat, Nat.shiftLeft_eq]
  simp
  omega

end Shifts

section Operands

variable {o : Operand}

theorem operandBits_src1 (h : Operand.wellFormed 256 o = true) :
    operandBits 2 8 o = wordOfFields 0#2 o.isSome false false 0#3 o.field 0#8 0#8 := by
  cases o with
  | none => rfl
  | some n =>
    have hvalid : 1#32 <<< 2 = wordOfFields 0#2 true false false 0#3 0#8 0#8 0#8 := rfl
    rw [operandBits, hvalid, shiftLeft_eight_eq_wordOfFields (by simpa [Operand.wellFormed] using h),
      wordOfFields_or]
    simp [Operand.field]

theorem operandBits_src2 (h : Operand.wellFormed 256 o = true) :
    operandBits 3 16 o = wordOfFields 0#2 false o.isSome false 0#3 0#8 o.field 0#8 := by
  cases o with
  | none => rfl
  | some n =>
    have hvalid : 1#32 <<< 3 = wordOfFields 0#2 false true false 0#3 0#8 0#8 0#8 := rfl
    rw [operandBits, hvalid, shiftLeft_sixteen_eq_wordOfFields (by simpa [Operand.wellFormed] using h),
      wordOfFields_or]
    simp [Operand.field]

theorem operandBits_dst : operandBits 4 24 o = wordOfFields 0#2 false false o.isSome 0#3 0#8 0#8 o.field := by
  cases o with
  | none => rfl
  | some n =>
    have hvalid : 1#32 <<< 4 = wordOfFields 0#2 false false true 0#3 0#8 0#8 0#8 := rfl
    rw [operandBits, hvalid, shiftLeft_twentyFour_eq_wordOfFields, wordOfFields_or]
    simp [Operand.field]

end Operands

/-- The operands of a well-formed instruction, one by one. -/
theorem Instr.wellFormed_iff {numArch : Nat} {i : Instr} :
    i.wellFormed numArch = true ↔ Operand.wellFormed numArch i.dst = true
      ∧ Operand.wellFormed numArch i.src1 = true ∧ Operand.wellFormed numArch i.src2 = true := by
  simp [Instr.wellFormed, and_assoc]

/-- The word of R109, field by field (R100): no operand reaches into the field of another. -/
theorem encode_eq_wordOfFields {i : Instr} (h : i.wellFormed 256 = true) :
    encode i = wordOfFields i.kind.field i.src1.isSome i.src2.isSome i.dst.isSome 0#3 i.src1.field
      i.src2.field i.dst.field := by
  obtain ⟨-, hsrc1, hsrc2⟩ := Instr.wellFormed_iff.mp h
  rw [encode, kindCode_eq_wordOfFields, operandBits_src1 hsrc1, operandBits_src2 hsrc2, operandBits_dst,
    wordOfFields_or, wordOfFields_or, wordOfFields_or]
  simp

/-! ## Decode and encode agree -/

theorem Operand.wellFormed_mono {m n : Nat} (hmn : m ≤ n) {o : Operand} (h : Operand.wellFormed m o = true) :
    Operand.wellFormed n o = true := by
  cases o with
  | none => rfl
  | some r =>
    simp only [Operand.wellFormed, decide_eq_true_eq] at h ⊢
    omega

theorem Instr.wellFormed_mono {m n : Nat} (hmn : m ≤ n) {i : Instr} (h : i.wellFormed m = true) :
    i.wellFormed n = true := by
  obtain ⟨hdst, hsrc1, hsrc2⟩ := Instr.wellFormed_iff.mp h
  exact Instr.wellFormed_iff.mpr
    ⟨Operand.wellFormed_mono hmn hdst, Operand.wellFormed_mono hmn hsrc1, Operand.wellFormed_mono hmn hsrc2⟩

theorem decodeKind_eq_some_iff_field {k : BitVec 2} {kind : Kind} :
    decodeKind k = some kind ↔ k = kind.field := by
  rw [decodeKind_eq_some]
  cases kind <;> simp [Kind.field]

/-- The one pair of valid bit and field that `decodeOperand` reads as a given operand; an index in a field of 8
bits is below 256, whatever `A` is. -/
theorem decodeOperand_eq_ok_iff_field {numArch : Nat} {valid : Bool} {field : BitVec 8} {o : Operand} :
    decodeOperand numArch valid field = .ok o ↔
      Operand.wellFormed numArch o = true ∧ Operand.wellFormed 256 o = true
        ∧ valid = o.isSome ∧ field = o.field := by
  rw [decodeOperand_eq_ok]
  cases o with
  | none => simp [Operand.wellFormed, Operand.field]
  | some n =>
    have hfield : n < 256 → (field = BitVec.ofNat 8 n ↔ n = field.toNat) := by
      intro hn
      rw [← BitVec.toNat_inj, BitVec.toNat_ofNat, Nat.mod_eq_of_lt hn, eq_comm]
    have hlt := field.isLt
    simp only [Operand.wellFormed, Operand.field, Option.isSome_some, decide_eq_true_eq, Option.some.injEq,
      reduceCtorEq, and_false, or_false]
    constructor
    · rintro ⟨hvalid, hA, rfl⟩
      exact ⟨hA, hlt, hvalid, (hfield hlt).mpr rfl⟩
    · rintro ⟨hA, hn, hvalid, hf⟩
      obtain rfl := (hfield hn).mp hf
      exact ⟨hvalid, hA, rfl⟩

/-- A word decodes to `i` exactly when it is the word of `i` and the registers of `i` exist, in the block and in
a field of 8 bits. -/
theorem decode_eq_ok_iff_encode {numArch : Nat} {w : Word} {i : Instr} :
    decode numArch w = .ok i ↔ i.wellFormed numArch = true ∧ i.wellFormed 256 = true ∧ encode i = w := by
  rw [decode_eq_ok]
  simp only [decodeKind_eq_some_iff_field, decodeOperand_eq_ok_iff_field]
  constructor
  · rintro ⟨hkind, hres, ⟨hA1, h1, hv1, hf1⟩, ⟨hA2, h2, hv2, hf2⟩, hAd, hd, hvd, hfd⟩
    have hfits : i.wellFormed 256 = true := Instr.wellFormed_iff.mpr ⟨hd, h1, h2⟩
    refine ⟨Instr.wellFormed_iff.mpr ⟨hAd, hA1, hA2⟩, hfits, ?_⟩
    rw [encode_eq_wordOfFields hfits, ← hkind, ← hres, ← hv1, ← hv2, ← hvd, ← hf1, ← hf2, ← hfd,
      wordOfFields_fields]
  · rintro ⟨hexists, hfits, rfl⟩
    obtain ⟨hAd, hA1, hA2⟩ := Instr.wellFormed_iff.mp hexists
    obtain ⟨hd, h1, h2⟩ := Instr.wellFormed_iff.mp hfits
    rw [encode_eq_wordOfFields hfits]
    simp [hAd, hA1, hA2, hd, h1, h2]

/-- Settles O1: registers below A fit their fields of 8 bits, so the word of `i` decodes to `i`. -/
theorem decodeOfEncode : Obligations.DecodeOfEncode := fun _ _ hA h =>
  decode_eq_ok_iff_encode.mpr ⟨h, Instr.wellFormed_mono hA h, rfl⟩

/-- Settles O2: the other direction of the same agreement. -/
theorem encodeOfDecode : Obligations.EncodeOfDecode := by
  intro numArch w i h
  obtain ⟨hexists, -, hword⟩ := decode_eq_ok_iff_encode.mp h
  exact ⟨hword, hexists⟩

/-! ## The opcode map -/

theorem kindCode_inj {k k' : Kind} : kindCode k = kindCode k' ↔ k = k' := by
  cases k <;> cases k' <;> decide

/-- Settles O4: an accepted word is an encoded one, whose bits under the mask are the code of its kind. -/
theorem opcodeMapSelectsKind : Obligations.OpcodeMapSelectsKind := by
  intro numArch w i h
  obtain ⟨-, -, rfl⟩ := decode_eq_ok_iff_encode.mp h
  have hmask : encode i &&& 0x000000E3 = kindCode i.kind :=
    Laws.opcodeBits_of_parts i.kind i.dst i.src1 i.src2
  rw [hmask]
  exact ⟨kindCode_inj.symm, kindCode_inj.symm, kindCode_inj.symm⟩

/-- Settles O5, one evaluation for each word. -/
theorem exampleWordsDecode : Obligations.ExampleWordsDecode := ⟨rfl, rfl, rfl, rfl, rfl, rfl, rfl⟩

end Sys2Proof
end

section
/-!
SUPPORT. The reserved encodings (R101, R105): what the decoder refuses, and the fields of a word by arithmetic on
its value.
-/
namespace Sys2Proof

/-! ## The fields by arithmetic -/

section Values

variable (w : Word)

theorem kindField_eq_three_iff : kindField w = 3#2 ↔ w.toNat % 4 = 3 := by
  rw [← BitVec.toNat_inj, kindField, BitVec.extractLsb'_toNat]
  rfl

theorem reservedField_eq_zero_iff : reservedField w = 0#3 ↔ w.toNat / 32 % 8 = 0 := by
  rw [← BitVec.toNat_inj, reservedField, BitVec.extractLsb'_toNat, Nat.shiftRight_eq_div_pow]
  rfl

theorem src1Field_toNat : (src1Field w).toNat = w.toNat / 256 % 256 := by
  rw [src1Field, BitVec.extractLsb'_toNat, Nat.shiftRight_eq_div_pow]

theorem src2Field_toNat : (src2Field w).toNat = w.toNat / 65536 % 256 := by
  rw [src2Field, BitVec.extractLsb'_toNat, Nat.shiftRight_eq_div_pow]

/-- Nothing stands above the field D. -/
theorem dstField_toNat : (dstField w).toNat = w.toNat / 16777216 := by
  have htop : w.toNat / 2 ^ 24 < 2 ^ 8 := Nat.div_lt_of_lt_mul w.isLt
  rw [dstField, BitVec.extractLsb'_toNat, Nat.shiftRight_eq_div_pow, Nat.mod_eq_of_lt htop]
  rfl

theorem src1Valid_toNat : (src1Valid w).toNat = w.toNat / 4 % 2 := Nat.toNat_testBit w.toNat 2

theorem src2Valid_toNat : (src2Valid w).toNat = w.toNat / 8 % 2 := Nat.toNat_testBit w.toNat 3

theorem dstValid_toNat : (dstValid w).toNat = w.toNat / 16 % 2 := Nat.toNat_testBit w.toNat 4

end Values

/-! ## What is refused -/

theorem decodeKind_eq_none {k : BitVec 2} : decodeKind k = none ↔ k = 3#2 := by
  revert k
  decide

/-- A register field is refused where it is nonzero and absent, or present and not below `A`. -/
theorem decodeOperand_eq_error {numArch : Nat} {valid : Bool} {field : BitVec 8} :
    (∃ why, decodeOperand numArch valid field = .error why) ↔
      (valid.toNat = 0 ∧ field.toNat ≠ 0) ∨ (valid.toNat = 1 ∧ numArch ≤ field.toNat) := by
  have hzero : field = 0#8 ↔ field.toNat = 0 := BitVec.toNat_inj.symm
  cases valid with
  | true => by_cases h : numArch ≤ field.toNat <;> simp [decodeOperand, h]
  | false => by_cases h : field.toNat = 0 <;> simp [decodeOperand, hzero, h]

/-- The first check (R101). -/
theorem decode_eq_reservedKind {numArch : Nat} {w : Word} (hkind : kindField w = 3#2) :
    decode numArch w = .error .reservedKind := by
  rw [decode, decodeKind_eq_none.mpr hkind]

/-- The second check. -/
theorem decode_eq_reservedBits {numArch : Nat} {w : Word} (hkind : kindField w ≠ 3#2)
    (hres : reservedField w ≠ 0#3) : decode numArch w = .error .reservedBits := by
  obtain ⟨k, hk⟩ := Option.ne_none_iff_exists'.mp (mt decodeKind_eq_none.mp hkind)
  simp only [decode, hk, if_pos hres]

/-- A word is refused exactly where one of the checks of R103 refuses it. -/
theorem decode_eq_error {numArch : Nat} {w : Word} :
    (∃ why, decode numArch w = .error why) ↔
      kindField w = 3#2 ∨ reservedField w ≠ 0#3
        ∨ (∃ why, decodeOperand numArch (src1Valid w) (src1Field w) = .error why)
        ∨ (∃ why, decodeOperand numArch (src2Valid w) (src2Field w) = .error why)
        ∨ (∃ why, decodeOperand numArch (dstValid w) (dstField w) = .error why) := by
  by_cases hkind : kindField w = 3#2
  · simp [decode_eq_reservedKind hkind, hkind]
  by_cases hres : reservedField w = 0#3
  · obtain ⟨k, hk⟩ := Option.ne_none_iff_exists'.mp (mt decodeKind_eq_none.mp hkind)
    cases h1 : decodeOperand numArch (src1Valid w) (src1Field w) with
    | error => simp [decode, hk, hres, h1]
    | ok a =>
      cases h2 : decodeOperand numArch (src2Valid w) (src2Field w) with
      | error => simp [decode, hk, hres, h1, h2]
      | ok b =>
        cases hd : decodeOperand numArch (dstValid w) (dstField w) with
        | error => simp [decode, hk, hres, h1, h2, hd]
        | ok d => simp [decode, hkind, hk, hres, h1, h2, hd]
  · simp [decode_eq_reservedBits hkind hres, hres]

/-- Settles O3: the checks of R103 in the order of the decoder, each read as arithmetic on the word's value. -/
theorem reservedEncodingsRefused : Obligations.ReservedEncodingsRefused := by
  intro numArch w
  refine ⟨fun hkind => decode_eq_reservedKind ((kindField_eq_three_iff w).mpr hkind), fun hkind hres => ?_, ?_⟩
  · exact decode_eq_reservedBits (mt (kindField_eq_three_iff w).mp hkind)
      (mt (reservedField_eq_zero_iff w).mp hres)
  · rw [decode_eq_error, decodeOperand_eq_error, decodeOperand_eq_error, decodeOperand_eq_error,
      kindField_eq_three_iff, Ne, reservedField_eq_zero_iff, src1Field_toNat, src2Field_toNat, dstField_toNat,
      src1Valid_toNat, src2Valid_toNat, dstValid_toNat]
    tauto

end Sys2Proof
end

section
/-!
SUPPORT. The assembly language (R108): the reader goes over a written line token by token, and each token reads back.
-/
namespace Sys2Proof.Machine

/-! ## Tokens -/

/-- The characters that do not end a token. -/
abbrev tokenChar (c : Char) : Prop := ¬(c = ' ' ∨ c = ',')

theorem takeToken_of_tokenChars {cs : List Char} (h : ∀ c ∈ cs, tokenChar c) : takeToken cs = (cs, []) := by
  induction cs with
  | nil => rfl
  | cons c cs ih =>
    obtain ⟨hc, hcs⟩ := List.forall_mem_cons.mp h
    rw [takeToken, if_neg hc, ih hcs]

/-- A token ends at the first blank or comma. -/
theorem takeToken_append {cs rest : List Char} {c : Char} (h : ∀ c ∈ cs, tokenChar c) (hc : ¬tokenChar c) :
    takeToken (cs ++ c :: rest) = (cs, c :: rest) := by
  induction cs with
  | nil => rw [List.nil_append, takeToken, if_pos (not_not.mp hc)]
  | cons d cs ih =>
    obtain ⟨hd, hcs⟩ := List.forall_mem_cons.mp h
    rw [List.cons_append, takeToken, if_neg hd, ih hcs]

theorem skipBlanks_nil : skipBlanks [] = [] := rfl

theorem skipBlanks_blank (cs : List Char) : skipBlanks (' ' :: cs) = skipBlanks cs := if_pos rfl

/-- No blanks stand before a token. -/
theorem skipBlanks_append {cs rest : List Char} (hne : cs ≠ []) (h : ∀ c ∈ cs, tokenChar c) :
    skipBlanks (cs ++ rest) = cs ++ rest := by
  cases cs with
  | nil => exact absurd rfl hne
  | cons c cs => exact if_neg fun hc => h c List.mem_cons_self (.inl hc)

theorem expectComma_comma (cs : List Char) : expectComma (',' :: cs) = some cs := rfl

/-! ## Mnemonics -/

theorem mnemonicOf_ne_nil (k : Kind) : mnemonicOf k ≠ [] := by
  cases k <;> decide

theorem tokenChar_of_mem_mnemonicOf (k : Kind) : ∀ c ∈ mnemonicOf k, tokenChar c := by
  cases k <;> simp [mnemonicOf]

@[simp] theorem kindOfMnemonic_mnemonicOf (k : Kind) : kindOfMnemonic (mnemonicOf k) = some k := by
  cases k <;> decide

/-! ## Operands -/

theorem tokenChar_of_isDigit {c : Char} (h : c.isDigit = true) : tokenChar c := by
  rintro (rfl | rfl) <;> exact absurd h (by decide)

theorem writeOperand_ne_nil (o : Operand) : writeOperand o ≠ [] := by
  cases o <;> simp [writeOperand]

theorem tokenChar_of_mem_writeOperand (o : Operand) : ∀ c ∈ writeOperand o, tokenChar c := by
  cases o with
  | none => simp [writeOperand]
  | some n =>
    refine List.forall_mem_cons.mpr ⟨by decide, fun c hc => tokenChar_of_isDigit ?_⟩
    exact Nat.isDigit_of_mem_toDigits (by decide) (by decide) hc

/-- The model's digits are Lean's. -/
theorem digitValue_of_isDigit {c : Char} (h : c.isDigit = true) : digitValue c = some (c.toNat - '0'.toNat) := by
  rw [Char.isDigit_iff_toNat] at h
  exact if_pos h

theorem readDigits_eq_ofDigitChars {cs : List Char} (h : ∀ c ∈ cs, c.isDigit = true) (v : Nat) :
    readDigits v cs = some (Nat.ofDigitChars 10 cs v) := by
  induction cs generalizing v with
  | nil => rfl
  | cons c cs ih =>
    obtain ⟨hc, hcs⟩ := List.forall_mem_cons.mp h
    rw [readDigits, digitValue_of_isDigit hc, Nat.ofDigitChars_cons]
    exact ih hcs _

/-- The digits of a number read back as that number. -/
theorem readDigits_toDigits (n : Nat) : readDigits 0 (Nat.toDigits 10 n) = some n := by
  rw [readDigits_eq_ofDigitChars (fun c hc => Nat.isDigit_of_mem_toDigits (by decide) (by decide) hc),
    Nat.ofDigitChars_ten_toDigits]

theorem readOperand_writeOperand {numArch : Nat} {o : Operand} (h : Operand.wellFormed numArch o = true) :
    readOperand numArch (writeOperand o) = some o := by
  cases o with
  | none => rfl
  | some n =>
    obtain ⟨c, cs, hdigits⟩ := List.exists_cons_of_ne_nil (Nat.toDigits_ne_nil (n := n) (b := 10))
    have hread : readDigits 0 (c :: cs) = some n := hdigits ▸ readDigits_toDigits n
    have hn : n < numArch := by simpa [Operand.wellFormed] using h
    simp only [writeOperand, hdigits, readOperand, hread, if_pos hn]

/-! ## A written line -/

/-- A written operand is the next token of a line, whatever separator follows it. -/
theorem takeToken_writeOperand {o : Operand} {rest : List Char} {c : Char} (hc : ¬tokenChar c) :
    takeToken (skipBlanks (' ' :: (writeOperand o ++ c :: rest))) = (writeOperand o, c :: rest) := by
  rw [skipBlanks_blank, skipBlanks_append (writeOperand_ne_nil o) (tokenChar_of_mem_writeOperand o),
    takeToken_append (tokenChar_of_mem_writeOperand o) hc]

/-- The last operand of a line. -/
theorem takeToken_writeOperand_end (o : Operand) :
    takeToken (skipBlanks (' ' :: writeOperand o)) = (writeOperand o, []) := by
  have hskip := skipBlanks_append (rest := []) (writeOperand_ne_nil o) (tokenChar_of_mem_writeOperand o)
  rw [List.append_nil] at hskip
  rw [skipBlanks_blank, hskip, takeToken_of_tokenChars (tokenChar_of_mem_writeOperand o)]

theorem takeToken_mnemonicOf (k : Kind) (rest : List Char) :
    takeToken (skipBlanks (mnemonicOf k ++ ' ' :: rest)) = (mnemonicOf k, ' ' :: rest) := by
  rw [skipBlanks_append (mnemonicOf_ne_nil k) (tokenChar_of_mem_mnemonicOf k),
    takeToken_append (tokenChar_of_mem_mnemonicOf k) (by decide)]

/-- Settles O6: the reader takes the mnemonic and the three operands of the written line, one token after another. -/
theorem assemblyReadsBack : Obligations.AssemblyReadsBack := by
  intro numArch i h
  obtain ⟨hdst, hsrc1, hsrc2⟩ := Instr.wellFormed_iff.mp h
  have hline : writeAssembly i = mnemonicOf i.kind ++ ' ' :: (writeOperand i.dst
      ++ ',' :: ' ' :: (writeOperand i.src1 ++ ',' :: ' ' :: writeOperand i.src2)) := by
    simp [writeAssembly]
  have hcomma : ¬tokenChar ',' := by decide
  simp only [readAssembly, hline, takeToken_mnemonicOf, takeToken_writeOperand hcomma,
    takeToken_writeOperand_end, kindOfMnemonic_mnemonicOf, readOperand_writeOperand hdst,
    readOperand_writeOperand hsrc1, readOperand_writeOperand hsrc2, expectComma_comma, skipBlanks_nil,
    Instr.ofKind_eta]

end Sys2Proof.Machine
end

section
/-!
SUPPORT. The step and the stages run the instruction that the program's bytes decode to (R103, R130, R160, R181).
-/
namespace Sys2Proof.Machine

/-! ## The stages that take a record -/

/-- The record of instruction `j` holds the decoding of descriptor `j` (R40, R103). -/
theorem State.Shaped.instr_of_decode {s : State} (h : s.Shaped) {j : Nat} {w : Word} {i : Instr}
    (hread : s.progRead j = some w) (hdecode : decode s.cfg.numArch w = .ok i) :
    ∃ r, s.recs[j]? = some r ∧ r.instr = i := by
  obtain ⟨hj, rfl⟩ := State.progRead_eq_some.mp hread
  obtain ⟨i', hi', hdecode'⟩ := decode_of_decodeFrom_eq_ok h.loaded hj
  rw [Nat.zero_add, hdecode] at hdecode'
  cases hdecode'
  rwa [List.getElem?_map, Option.map_eq_some_iff] at hi'

/-- Settles O13: a stage hands over the record's instruction, which is the decoded one. -/
theorem stagesRunDecodedInstruction : Obligations.StagesRunDecodedInstruction := by
  intro s st j w i hshaped hread hdecode
  obtain ⟨r, hr, rfl⟩ := hshaped.instr_of_decode hread hdecode
  simp only [present, hr]

/-! ## Fetch -/

/-- `t` fetches the descriptor that `s` fetches: the bytes, N, the configuration and the fetch pointer are those
of `s`. -/
structure State.FetchesAs (s t : State) : Prop where
  bytes : ∀ a, t.prog.readByte a = s.prog.readByte a
  progLen : t.progLen = s.progLen
  cfg : t.cfg = s.cfg
  fetchPtr : t.fetchPtr = s.fetchPtr

/-- No stage but fetch writes what fetch reads. -/
theorem State.FetchesAs.present {s t u : State} (h : s.FetchesAs t) {st : Stage} {j : Nat} (hst : st ≠ .fetch)
    (hu : present st j t = .next u) : s.FetchesAs u.deselect := by
  obtain ⟨r, -, hexec⟩ := present_eq_next.mp hu
  obtain ⟨hbytes, hlen, hcfg, -⟩ := noInstructionWritesMemory _ _ _ hexec
  obtain ⟨-, -, -, -, -, -, hptr, -⟩ := eachStageWritesItsOwnState _ _ _ st j rfl hexec
  exact ⟨fun a => (hbytes a).trans (h.bytes a), hlen.trans h.progLen, hcfg.trans h.cfg,
    (hptr hst).trans h.fetchPtr⟩

/-- The six stages before fetch leave what fetch reads (R131). -/
theorem stagesBeforeFetch_fetchesAs {s t : State} (h : stagesBeforeFetch s = .next t) : s.FetchesAs t := by
  obtain ⟨s1, s2, s3, s4, s5, h1, h2, h3, h4, h5, h6⟩ := stagesBeforeFetch_eq_next.mp h
  have p0 : s.FetchesAs (cycleStart s) := ⟨fun _ => rfl, rfl, rfl, rfl⟩
  have p1 := retireLoop_preserves (fun _ _ _ hs _ _ => hs.present (by decide)) _ _ _ p0 h1
  have p2 := completeScan_preserves (fun _ _ _ hs => hs.present (by decide)) _ _ _ p1 h2
  have p3 := executeLoop_preserves (fun _ _ _ _ hs _ => hs.present (by decide)) _ _ _ p2 h3
  have p4 := issueScan_preserves (fun _ _ _ _ _ hs _ _ => hs.present (by decide)) _ _ _ _ p3 h4
  have p5 := dispatchLoop_preserves (fun _ _ _ _ hs _ => hs.present (by decide)) _ _ _ p4 h5
  exact decodeLoop_preserves (fun _ _ _ _ hs _ => hs.present (by decide)) _ _ _ p5 h6

theorem State.FetchesAs.progRead {s t : State} (h : s.FetchesAs t) (i : Nat) : t.progRead i = s.progRead i := by
  simp only [State.progRead, Memory.readDescriptor, h.bytes, h.progLen]

/-- Fetch hands over the decoding of the descriptor at the fetch pointer. -/
theorem presentFetched_of_decode {s : State} {w : Word} {i : Instr} (hread : s.progRead s.fetchPtr = some w)
    (hdecode : decode s.cfg.numArch w = .ok i) : presentFetched s = exec i (s.select .fetch s.fetchPtr) := by
  simp only [presentFetched, hread, hdecode]

/-- The edge of a block that performs a cycle (R61). -/
theorem step_eq_cycleStep {s : State} (h : s.performsCycle) : step s = cycleStep s := by
  obtain ⟨hadmitted, hrst, hstatus⟩ := h
  simp [step, hadmitted, hrst, hstatus]

/-- Settles O12: after the stages before fetch, the first turn of fetch reads and decodes the same bytes. -/
theorem stepRunsDecodedInstruction : Obligations.StepRunsDecodedInstruction := by
  intro s u i n hcycle hwidth hptr hdecode hu
  have hsame := stagesBeforeFetch_fetchesAs hu
  have hread : u.progRead u.fetchPtr = some (s.prog.readDescriptor s.fetchPtr) := by
    rw [hsame.progRead, hsame.fetchPtr]
    exact State.progRead_eq_some.mpr ⟨hptr, rfl⟩
  rw [← hsame.cfg] at hdecode hwidth
  rw [← hsame.fetchPtr, ← hsame.progLen] at hptr
  rw [step_eq_cycleStep hcycle, cycleStep, hu, andThen_next, hwidth, fetchLoop, if_pos hptr,
    presentFetched_of_decode hread hdecode, hsame.fetchPtr]

end Sys2Proof.Machine
end

section
/-!
SUPPORT. Where a stage stalls, and where fetch and decode advance (R140, R181, R183, R201 to R203, R231, R236, R240,
R261, R281).
-/
namespace Sys2Proof.Machine

/-! ## Each stage on one instruction -/

section Stages

variable {s : State} {j : Nat}

theorem fetchStage_of_full (h : s.fqFull = true) : fetchStage j s = .next s := if_pos h

theorem fetchStage_of_room (h : s.fqFull = false) :
    fetchStage j s = .next ({ s with fq := s.fq ++ [j], fetchPtr := s.fetchPtr + 1 }.advanced .fetch j) := by
  rw [fetchStage, h]
  rfl

theorem decodeStage_of_full (h : s.dqFull = true) : decodeStage j s = .next s := if_pos h

theorem decodeStage_of_room (h : s.dqFull = false) : decodeStage j s = .next (s.decodeMove j) := by
  rw [decodeStage, h]
  rfl

/-- The three preconditions of dispatch, of which one fails (R201 to R203). -/
theorem State.dispatchStation_eq_none {kind : Kind} {d : Operand} :
    s.dispatchStation kind d = none
      ↔ s.cfg.robSize ≤ s.robCount ∨ s.freeStation kind = none ∨ (d ≠ none ∧ s.freeList = []) := by
  rw [Option.eq_none_iff_forall_ne_some]
  simp only [ne_eq, State.dispatchStation_eq_some]
  cases hk : s.freeStation kind with
  | none => simp
  | some k =>
    simp only [Option.some.injEq, reduceCtorEq, false_or]
    constructor
    · intro h
      by_contra hc
      exact h k ⟨by omega, rfl, by tauto⟩
    · rintro hc m ⟨hcount, -, hfree⟩
      obtain hfull | ⟨hd, hempty⟩ := hc
      · omega
      · exact hfree.elim hd fun hne => hne hempty

theorem dispatchStage_of_no_station {kind : Kind} {d a b : Operand} (h : s.dispatchStation kind d = none) :
    dispatchStage kind d a b j s = .next s := by
  simp only [dispatchStage, h]

/-- An instruction is passed over by issue: no room, a source that is not ready, or an earlier issue (R231, R236). -/
theorem issueStage_of_blocked {a b : Operand} {r : InstrRecord} (hr : s.recs[j]? = some r)
    (h : s.xqFull = true ∨ readyToExecute a b r = false ∨ r.issued = true) : issueStage a b j s = .next s := by
  simp only [issueStage, hr]
  refine if_neg fun hready => ?_
  simp only [Bool.and_eq_true, Bool.not_eq_true'] at hready
  obtain ⟨⟨hroom, hsources⟩, hissued⟩ := hready
  obtain h | h | h := h
  · exact absurd (h.symm.trans hroom) (by decide)
  · exact absurd (h.symm.trans hsources) (by decide)
  · exact absurd (h.symm.trans hissued) (by decide)

theorem executeStage_of_full (h : s.cqFull = true) : executeStage j s = .next s := if_pos h

theorem completeStage_of_not_due {r : InstrRecord} (hr : s.recs[j]? = some r)
    (h : (s.cycle : Int) < r.ts.execute + r.lat) : completeStage j s = .next s := by
  simp only [completeStage, hr]
  exact if_neg (Int.not_le.mpr h)

theorem retireStage_of_empty {d : Operand} (h : s.robCount = 0) : retireStage d j s = .next s := if_pos h

theorem retireStage_of_not_completed {d : Operand} {e : RobEntry} {r : InstrRecord}
    (he : s.rob[s.robHead]? = some e) (hr : s.recs[j]? = some r) (h : r.completed = false) :
    retireStage d j s = .next s := by
  by_cases hcount : s.robCount = 0
  · exact retireStage_of_empty hcount
  · simp only [retireStage, if_neg hcount, he, hr, h]
    rfl

end Stages

theorem readyToExecute_eq_false {a b : Operand} {r : InstrRecord} :
    readyToExecute a b r = false ↔ (a ≠ none ∧ r.rdy1 = false) ∨ (b ≠ none ∧ r.rdy2 = false) := by
  rw [← Bool.not_eq_true, readyToExecute_eq_true, not_and_or, not_or, not_or, Bool.not_eq_true, Bool.not_eq_true]

/-! ## The statements -/

/-- Settles O14: the guard of fetch is passed, and an advance writes the timestamp, the trace and the flag. -/
theorem fetchAdvancesInstruction : Obligations.FetchAdvancesInstruction := by
  intro i s j hactive hroom
  rw [exec_fetch i hactive, fetchStage_of_room (State.fqFull_eq_false.mpr hroom)]
  rfl

/-- Settles O15: the guard of decode is passed, and the instruction moves from FQ to DQ. -/
theorem decodeAdvancesInstruction : Obligations.DecodeAdvancesInstruction := by
  intro i s j hactive hroom
  rw [exec_decode i hactive, decodeStage_of_room (State.dqFull_eq_false.mpr hroom)]
  rfl

/-- Settles O25: each stage, at the guard that fails. -/
theorem stallLeavesStateUnchanged : Obligations.StallLeavesStateUnchanged := by
  intro i s j r hr
  refine ⟨fun hactive hfull => ?fetch, fun hactive hfull => ?decode, fun hactive hblocked => ?dispatch,
    fun hactive hblocked => ?issue, fun hactive hfull => ?execute, fun hactive hearly => ?complete,
    fun hactive hblocked => ?retire⟩
  case fetch =>
    rw [exec_fetch i hactive]
    exact fetchStage_of_full (decide_eq_true hfull)
  case decode =>
    rw [exec_decode i hactive]
    exact decodeStage_of_full (decide_eq_true hfull)
  case dispatch =>
    rw [exec_dispatch i hactive]
    exact dispatchStage_of_no_station (State.dispatchStation_eq_none.mpr hblocked)
  case issue =>
    rw [exec_issue i hactive]
    refine issueStage_of_blocked hr ?_
    obtain hfull | hissued | hsource := hblocked
    · exact .inl (decide_eq_true hfull)
    · exact .inr (.inr hissued)
    · exact .inr (.inl (readyToExecute_eq_false.mpr hsource))
  case execute =>
    rw [exec_execute i hactive]
    exact executeStage_of_full (decide_eq_true hfull)
  case complete =>
    rw [exec_complete i hactive]
    exact completeStage_of_not_due hr hearly
  case retire =>
    rw [exec_retire i hactive]
    obtain hempty | ⟨hhead, hnot⟩ := hblocked
    · exact retireStage_of_empty hempty
    · exact retireStage_of_not_completed (List.getElem?_eq_getElem hhead) hr hnot

end Sys2Proof.Machine
end

section
/-!
SUPPORT. What every stage shows of an advance: the trace event, the progress flag, and nothing of the cycle number
(R131, R135, R306).
-/
namespace Sys2Proof.Machine

/-! ## A passage is a stall or an advance -/

/-- `u` comes from `s` by an advance of instruction `j` in stage `st`: what the trace and the flags show of it. -/
structure State.Emits (s : State) (st : Stage) (j : Nat) (u : State) : Prop where
  trace : u.trace = s.trace ++ [⟨s.cycle, st, j⟩]
  progress : u.progress = true
  cycle : u.cycle = s.cycle
  idle : u.active = none

/-- What a stage does with an instruction: nothing, or an advance (R135, R140). -/
theorem exec_stalls_or_emits {i : Instr} {s u : State} {st : Stage} {j : Nat} (hactive : s.active = some ⟨st, j⟩)
    (h : exec i s = .next u) : u = s ∨ s.Emits st j u := by
  cases st with
  | fetch =>
    rw [exec_fetch i hactive] at h
    exact (fetchStage_next h).imp And.right fun ⟨_, hu⟩ => hu ▸ ⟨rfl, rfl, rfl, rfl⟩
  | decode =>
    rw [exec_decode i hactive] at h
    exact (decodeStage_next h).imp And.right fun ⟨_, hu⟩ => hu ▸ ⟨rfl, rfl, rfl, rfl⟩
  | dispatch =>
    rw [exec_dispatch i hactive] at h
    obtain ⟨-, rfl⟩ | ⟨k, src1, src2, n, v, -, -, -, hn, hv, rfl⟩ := dispatchStage_next h
    · exact .inl rfl
    · obtain ⟨-, rfl⟩ := State.allocate_eq_ok.mp hv
      obtain ⟨-, rfl⟩ | ⟨a, p, rest, old, -, -, -, -, rfl⟩ := State.renameDestination_eq_ok.mp hn <;>
        exact .inr ⟨rfl, rfl, rfl, rfl⟩
  | issue =>
    rw [exec_issue i hactive] at h
    obtain ⟨r, -, ⟨-, rfl⟩ | ⟨-, -, -, rfl⟩⟩ := issueStage_next h
    · exact .inl rfl
    · exact .inr ⟨rfl, rfl, rfl, rfl⟩
  | execute =>
    rw [exec_execute i hactive] at h
    obtain ⟨-, rfl⟩ | ⟨r, k, type, -, -, -, -, rfl⟩ := executeStage_next h
    · exact .inl rfl
    · exact .inr ⟨rfl, rfl, rfl, rfl⟩
  | complete =>
    rw [exec_complete i hactive] at h
    obtain ⟨r, -, ⟨-, rfl⟩ | ⟨v, -, hv, rfl⟩⟩ := completeStage_next h
    · exact .inl rfl
    · obtain ⟨-, rfl⟩ | ⟨p, -, -, rfl⟩ := markReady_broadcast_eq_ok.mp hv <;> exact .inr ⟨rfl, rfl, rfl, rfl⟩
  | retire =>
    rw [exec_retire i hactive] at h
    obtain ⟨-, rfl⟩ | ⟨e, r, -, -, -, ⟨-, rfl⟩ | ⟨v, -, hv, rfl⟩⟩ := retireStage_next h
    · exact .inl rfl
    · exact .inl rfl
    · obtain ⟨-, rfl⟩ | ⟨a, p, old, -, -, -, -, rfl⟩ := State.commit_eq_ok.mp hv <;>
        exact .inr ⟨rfl, rfl, rfl, rfl⟩

theorem present_stalls_or_emits {s u : State} {st : Stage} {j : Nat} (h : present st j s = .next u) :
    u = s.select st j ∨ s.Emits st j u := by
  obtain ⟨r, -, hx⟩ := present_eq_next.mp h
  exact (exec_stalls_or_emits rfl hx).imp_right fun hu => ⟨hu.trace, hu.progress, hu.cycle, hu.idle⟩

theorem presentFetched_stalls_or_emits {s u : State} (h : presentFetched s = .next u) :
    u = s.select .fetch s.fetchPtr ∨ s.Emits .fetch s.fetchPtr u := by
  obtain ⟨w, i, -, -, hx⟩ := presentFetched_eq_next.mp h
  exact (exec_stalls_or_emits rfl hx).imp_right fun hu => ⟨hu.trace, hu.progress, hu.cycle, hu.idle⟩

/-! ## Properties that follow the stages -/

/-- In stage `st`, ending a selection and an advance keep `P`. -/
structure KeptInStage (P : State → Prop) (st : Stage) : Prop where
  deselect : ∀ s, P s → P s.deselect
  emits : ∀ s j u, P s → s.Emits st j u → P u

section Principles

variable {P : State → Prop} {st : Stage} {s u : State}

theorem KeptInStage.present (h : KeptInStage P st) {j : Nat} (hs : P s) (hu : present st j s = .next u) :
    P u.deselect := by
  obtain rfl | hemits := present_stalls_or_emits hu
  · exact h.deselect s hs
  · exact h.deselect u (h.emits s j u hs hemits)

theorem KeptInStage.presentFetched (h : KeptInStage P .fetch) (hs : P s) (hu : presentFetched s = .next u) :
    P u.deselect := by
  obtain rfl | hemits := presentFetched_stalls_or_emits hu
  · exact h.deselect s hs
  · exact h.deselect u (h.emits s _ u hs hemits)

theorem KeptInStage.retireLoop (h : KeptInStage P .retire) {n : Nat} (hs : P s) (hu : retireLoop n s = .next u) :
    P u :=
  retireLoop_preserves (fun _ _ _ hs _ _ => h.present hs) n s u hs hu

theorem KeptInStage.completeScan (h : KeptInStage P .complete) {js : List Nat} (hs : P s)
    (hu : completeScan js s = .next u) : P u :=
  completeScan_preserves (fun _ _ _ hs => h.present hs) js s u hs hu

theorem KeptInStage.executeLoop (h : KeptInStage P .execute) {n : Nat} (hs : P s)
    (hu : executeLoop n s = .next u) : P u :=
  executeLoop_preserves (fun _ _ _ _ hs _ => h.present hs) n s u hs hu

theorem KeptInStage.issueScan (h : KeptInStage P .issue) {ks : List Nat} {n : Nat} (hs : P s)
    (hu : issueScan ks n s = .next u) : P u :=
  issueScan_preserves (fun _ _ _ _ _ hs _ _ => h.present hs) ks n s u hs hu

theorem KeptInStage.dispatchLoop (h : KeptInStage P .dispatch) {n : Nat} (hs : P s)
    (hu : dispatchLoop n s = .next u) : P u :=
  dispatchLoop_preserves (fun _ _ _ _ hs _ => h.present hs) n s u hs hu

theorem KeptInStage.decodeLoop (h : KeptInStage P .decode) {n : Nat} (hs : P s) (hu : decodeLoop n s = .next u) :
    P u :=
  decodeLoop_preserves (fun _ _ _ _ hs _ => h.present hs) n s u hs hu

theorem KeptInStage.fetchLoop (h : KeptInStage P .fetch) {n : Nat} (hs : P s) (hu : fetchLoop n s = .next u) :
    P u :=
  fetchLoop_preserves (fun _ _ hs _ => h.presentFetched hs) n s u hs hu

end Principles

/-- What each stage keeps of its own property and hands over to the next stage holds at the end of the cycle (R131). -/
theorem cycle_keeps_in_stage_order {P : Stage → State → Prop} (hkeep : ∀ st, KeptInStage (P st) st)
    (hmono : ∀ st st' s, st.rank ≤ st'.rank → P st s → P st' s) {s t : State} (hs : P .retire (cycleStart s))
    (h : cycleStep s = .next t) : ∃ u, P .fetch u ∧ t = cycleEnd u := by
  obtain ⟨s1, s2, s3, s4, s5, s6, s7, h1, h2, h3, h4, h5, h6, h7, rfl⟩ := cycleStep_stages h
  have p1 := hmono .retire .complete s1 (by decide) ((hkeep _).retireLoop hs h1)
  have p2 := hmono .complete .execute s2 (by decide) ((hkeep _).completeScan p1 h2)
  have p3 := hmono .execute .issue s3 (by decide) ((hkeep _).executeLoop p2 h3)
  have p4 := hmono .issue .dispatch s4 (by decide) ((hkeep _).issueScan p3 h4)
  have p5 := hmono .dispatch .decode s5 (by decide) ((hkeep _).dispatchLoop p4 h5)
  have p6 := hmono .decode .fetch s6 (by decide) ((hkeep _).decodeLoop p5 h6)
  exact ⟨s7, (hkeep _).fetchLoop p6 h7, rfl⟩

/-! ## The progress flag -/

/-- The flag says that the trace has an event (R135, R306). -/
def State.FlagsProgress (s : State) : Prop := s.progress = true ↔ s.trace ≠ []

theorem flagsProgress_keptInStage (st : Stage) : KeptInStage State.FlagsProgress st where
  deselect _ h := h
  emits s j u _ hu := by
    rw [State.FlagsProgress, hu.trace, hu.progress]
    simp

/-- Settles O36: the flag and the trace are cleared together, and every advance sets the one and extends the other. -/
theorem progressExactlyWhenTraced : Obligations.ProgressExactlyWhenTraced := by
  intro s t hs h
  rw [step_of_performsCycle hs] at h
  have hstart : (cycleStart s).FlagsProgress := by simp [State.FlagsProgress]
  obtain ⟨u, hu, rfl⟩ := cycle_keeps_in_stage_order (P := fun _ => State.FlagsProgress)
    flagsProgress_keptInStage (fun _ _ _ _ hp => hp) hstart h
  rw [cycleEnd_progress, cycleEnd_trace]
  exact hu

/-! ## The order of the trace -/

/-- The trace holds events of cycle `c`, in stage order, of no stage after `st`. -/
structure State.TracedThrough (c : Nat) (st : Stage) (s : State) : Prop where
  cycle : s.cycle = c
  events : ∀ e ∈ s.trace, e.cycle = c ∧ e.stage.rank ≤ st.rank
  ordered : s.trace.Pairwise fun e f => e.stage.rank ≤ f.stage.rank

theorem State.TracedThrough.emits {c j : Nat} {st : Stage} {s u : State} (h : s.TracedThrough c st)
    (hu : s.Emits st j u) : u.TracedThrough c st where
  cycle := hu.cycle.trans h.cycle
  events e he := by
    rw [hu.trace, List.mem_append, List.mem_singleton] at he
    obtain he | rfl := he
    · exact h.events e he
    · exact ⟨h.cycle, Nat.le_refl _⟩
  ordered := by
    rw [hu.trace]
    refine List.pairwise_append.mpr ⟨h.ordered, List.pairwise_singleton .., fun e he f hf => ?_⟩
    rw [List.mem_singleton.mp hf]
    exact (h.events e he).2

theorem tracedThrough_keptInStage (c : Nat) (st : Stage) : KeptInStage (State.TracedThrough c st) st where
  deselect _ h := { h with }
  emits _ _ _ h hu := h.emits hu

/-- Settles O37: each stage appends its own events, with the cycle's number, to those of the stages before it. -/
theorem traceFollowsStageOrder : Obligations.TraceFollowsStageOrder := by
  intro s t hs h
  rw [step_of_performsCycle hs] at h
  have hstart : (cycleStart s).TracedThrough s.cycle .retire := ⟨rfl, by simp, by simp⟩
  obtain ⟨u, hu, rfl⟩ := cycle_keeps_in_stage_order (tracedThrough_keptInStage s.cycle)
    (fun _ _ _ hle hp => { hp with events := fun e he => (hp.events e he).imp_right (·.trans hle) }) hstart h
  rw [cycleEnd_trace]
  exact ⟨fun e he => (hu.events e he).1, hu.ordered⟩

/-- Settles O38: the bound of each stage procedure, for the whole cycle. -/
theorem stageAdvancesAtMostWidth : Obligations.StageAdvancesAtMostWidth := fun _ _ st hs h =>
  advancedBy_length_le_width ((step_of_performsCycle hs).mp h) st

end Sys2Proof.Machine
end

section
/-!
SUPPORT. The end of a cycle, and the cycle numbers of a run (R136 to R138, R305).
-/
namespace Sys2Proof.Machine

/-! ## The end of a cycle -/

theorem State.watchdogFires_iff {s : State} :
    s.watchdogFires = true ↔ s.progress = false ∧ (s.cfg.watchdogMode = .literalRule ∨ s.cq = []) := by
  simp [State.watchdogFires]

section CycleEnd

variable {s : State}

theorem cycleEnd_of_all_retired (h : s.nRetired = s.progLen) : cycleEnd s = { s with status := .done } := if_pos h

theorem cycleEnd_of_watchdog (h : s.nRetired ≠ s.progLen) (hfires : s.watchdogFires = true) :
    cycleEnd s = { s with status := .aborted } := by
  rw [cycleEnd, if_neg h, if_pos hfires]

theorem cycleEnd_of_running (h : s.nRetired ≠ s.progLen) (hquiet : ¬s.watchdogFires = true) :
    cycleEnd s = { s with cycle := s.cycle + 1 } := by
  rw [cycleEnd, if_neg h, if_neg hquiet]

/-- A cycle that ends ABORTED is one in which the watchdog fired before every instruction had retired (R137). -/
theorem cycleEnd_aborted (hrunning : s.status = .running) (h : (cycleEnd s).status = .aborted) :
    s.nRetired ≠ s.progLen ∧ s.watchdogFires = true := by
  by_cases hall : s.nRetired = s.progLen
  · rw [cycleEnd_of_all_retired hall] at h
    cases h
  · by_cases hfires : s.watchdogFires = true
    · exact ⟨hall, hfires⟩
    · rw [cycleEnd_of_running hall hfires] at h
      exact absurd (hrunning.symm.trans h) (by decide)

end CycleEnd

/-- Settles O34: the three ends of a cycle, of which each gives one status. -/
theorem cycleEndsAsWatchdogSays : Obligations.CycleEndsAsWatchdogSays := by
  intro s t hs h
  obtain ⟨u, hu, rfl⟩ := cycleStep_fixed ((step_of_performsCycle hs).mp h)
  have hrunning : u.status = .running := hu.status.trans hs.2.2
  simp only [cycleEnd_nRetired, cycleEnd_progLen, cycleEnd_progress, cycleEnd_cfg, cycleEnd_cq,
    ← State.watchdogFires_iff, ← hu.cycle]
  by_cases hall : u.nRetired = u.progLen
  · rw [cycleEnd_of_all_retired hall]
    simp [hall]
  · by_cases hfires : u.watchdogFires = true
    · rw [cycleEnd_of_watchdog hall hfires]
      simp [hall, hfires]
    · rw [cycleEnd_of_running hall hfires]
      simp [hall, hfires, hrunning]

/-! ## The cycles of a run -/

theorem State.admission_congr {s t : State} (hcfg : t.cfg = s.cfg) (hlen : t.progLen = s.progLen)
    (hprog : t.prog = s.prog) : t.admission = s.admission := by
  simp only [State.admission, State.program, hcfg, hlen, hprog]

/-- A cycle keeps the block admitted, and out of reset (R17, R331). -/
theorem performsCycle_step {s t : State} (hs : s.performsCycle) (h : step s = .next t) :
    t.admission = none ∧ t.rst = false := by
  obtain ⟨hprog, hlen, -, hcfg, -⟩ := stepKeepsProgramAndConfiguration s t hs h
  obtain ⟨u, hu, rfl⟩ := cycleStep_fixed ((step_of_performsCycle hs).mp h)
  obtain ⟨hadmitted, hrst, -⟩ := hs
  exact ⟨(State.admission_congr hcfg hlen hprog).trans hadmitted, (cycleEnd_rst u).trans (hu.rst.trans hrst)⟩

/-- A run that has not halted performed a cycle at every edge, and will at the next one (R138). -/
theorem run_counts_cycles {k : Nat} {s t : State} (hadmitted : s.admission = none) (hrst : s.rst = false)
    (h : State.run k s = .next t) (ht : t.status = .running) :
    s.status = .running ∧ t.cycle = s.cycle + k ∧ t.performsCycle := by
  induction k generalizing s with
  | zero =>
    cases h
    exact ⟨ht, rfl, hadmitted, hrst, ht⟩
  | succ k ih =>
    obtain ⟨u, hu, hk⟩ := State.run_succ.mp h
    by_cases hs : s.status = .running
    · have hcycle : s.performsCycle := ⟨hadmitted, hrst, hs⟩
      obtain ⟨hadmitted', hrst'⟩ := performsCycle_step hcycle hu
      obtain ⟨hu', htcycle, hperforms⟩ := ih hadmitted' hrst' hk
      obtain ⟨-, -, hnumber, -⟩ := cycleEndsAsWatchdogSays s u hcycle hu
      refine ⟨hs, ?_, hperforms⟩
      rw [htcycle, hnumber hu']
      omega
    · rw [haltedBlockIgnoresEdges s hadmitted hrst hs] at hu
      cases hu
      exact absurd (ih hadmitted hrst hk).1 hs

/-- Settles O35: the run starts at FIRST_CYCLE with `rst` deasserted, and every edge of it counts one cycle. -/
theorem cycleNumbersAreConsecutive : Obligations.CycleNumbersAreConsecutive := by
  intro c ws k t hadmitted hrun ht
  obtain ⟨n, prog, is, hload⟩ := State.load_eq_ofReset c ws
  rw [hload] at hadmitted hrun
  exact (run_counts_cycles hadmitted rfl hrun ht).2

end Sys2Proof.Machine
end

section
/-!
SUPPORT. A cycle without progress changes nothing, and the next one would not either: apart from `complete`, no stage
reads the cycle number to decide whether it stalls (R139, R140).
-/
namespace Sys2Proof.Machine

/-! ## The same state in another cycle -/

/-- The state made to run in cycle `c` (R139). -/
def State.retried (s : State) (c : Nat) : State := { s with status := .running, cycle := c }

theorem cycleStart_cycleStart (s : State) : cycleStart (cycleStart s) = cycleStart s := by
  simp [cycleStart]

/-- A stage that stalls would stall in any other cycle, except `complete`, which waits for its deadline. -/
theorem exec_retried {i : Instr} {s : State} {st : Stage} {j : Nat} (hactive : s.active = some ⟨st, j⟩)
    (hst : st ≠ .complete) (h : exec i s = .next s) (c : Nat) : exec i (s.retried c) = .next (s.retried c) := by
  have hactive' : (s.retried c).active = some ⟨st, j⟩ := hactive
  have hselected : ∀ v st' m, s ≠ State.advanced v st' m := fun v st' m hs => by
    rw [hs] at hactive
    cases hactive
  cases st with
  | complete => exact absurd rfl hst
  | fetch =>
    rw [exec_fetch i hactive] at h
    obtain ⟨hfull, -⟩ | ⟨-, hs⟩ := fetchStage_next h
    · rw [exec_fetch i hactive']
      exact fetchStage_of_full hfull
    · exact absurd hs (hselected _ _ _)
  | decode =>
    rw [exec_decode i hactive] at h
    obtain ⟨hfull, -⟩ | ⟨-, hs⟩ := decodeStage_next h
    · rw [exec_decode i hactive']
      exact decodeStage_of_full hfull
    · exact absurd hs (hselected _ _ _)
  | dispatch =>
    rw [exec_dispatch i hactive] at h
    obtain ⟨hnone, -⟩ | ⟨k, src1, src2, n, v, -, -, -, -, -, hs⟩ := dispatchStage_next h
    · rw [exec_dispatch i hactive']
      exact dispatchStage_of_no_station hnone
    · exact absurd hs (hselected _ _ _)
  | issue =>
    rw [exec_issue i hactive] at h
    obtain ⟨r, hr, ⟨hblocked, -⟩ | ⟨-, -, -, hs⟩⟩ := issueStage_next h
    · rw [exec_issue i hactive']
      exact issueStage_of_blocked hr hblocked
    · exact absurd hs (hselected _ _ _)
  | execute =>
    rw [exec_execute i hactive] at h
    obtain ⟨hfull, -⟩ | ⟨r, k, type, -, -, -, -, hs⟩ := executeStage_next h
    · rw [exec_execute i hactive']
      exact executeStage_of_full hfull
    · exact absurd hs (hselected _ _ _)
  | retire =>
    rw [exec_retire i hactive] at h
    obtain ⟨hempty, -⟩ | ⟨e, r, -, he, hr, ⟨hnot, -⟩ | ⟨v, -, -, hs⟩⟩ := retireStage_next h
    · rw [exec_retire i hactive']
      exact retireStage_of_empty hempty
    · rw [exec_retire i hactive']
      exact retireStage_of_not_completed he hr hnot
    · exact absurd hs (hselected _ _ _)

theorem present_retried {s : State} {st : Stage} {j : Nat} (hst : st ≠ .complete)
    (h : present st j s = .next (s.select st j)) (c : Nat) :
    present st j (s.retried c) = .next ((s.retried c).select st j) := by
  obtain ⟨r, hr, hx⟩ := present_eq_next.mp h
  exact present_eq_next.mpr ⟨r, hr, exec_retried rfl hst hx c⟩

theorem presentFetched_retried {s : State} (h : presentFetched s = .next (s.select .fetch s.fetchPtr)) (c : Nat) :
    presentFetched (s.retried c) = .next ((s.retried c).select .fetch s.fetchPtr) := by
  obtain ⟨w, i, hread, hdecode, hx⟩ := presentFetched_eq_next.mp h
  exact presentFetched_eq_next.mpr ⟨w, i, hread, hdecode, exec_retried rfl (by decide) hx c⟩

/-! ## A stage procedure that advances nothing -/

/-- No stage clears the flag. -/
theorem progress_keptInStage (st : Stage) : KeptInStage (fun s => s.progress = true) st where
  deselect _ h := h
  emits _ _ _ _ hu := hu.progress

/-- `t` is the state `s`, and in no cycle would `f` do anything in it. -/
structure State.StuckAt (s : State) (f : State → Result) (t : State) : Prop where
  same : t = s
  retried : ∀ c, f (s.retried c) = .next (s.retried c)

/-- In every state between two passages, a procedure `f` that advances nothing is stuck. -/
def StuckUnlessProgress (f : State → Result) : Prop :=
  ∀ s t, s.active = none → f s = .next t → t.progress = false → s.StuckAt f t

theorem State.StuckAt.of_next {s t : State} {f : State → Result} (h : f s = .next t) (hs : f s = .next s)
    (hretried : ∀ c, f (s.retried c) = .next (s.retried c)) : s.StuckAt f t := by
  rw [hs] at h
  cases h
  exact ⟨rfl, hretried⟩

theorem orStall_select {s : State} {st : Stage} {j : Nat} (k : State → Result) (hidle : s.active = none) :
    orStall (.next (s.select st j)) k = .next s :=
  orStall_eq_next.mpr ⟨_, rfl, .inr ⟨by simp, (State.deselect_select s st j hidle).symm⟩⟩

/-- The turn of a loop that advances nothing ends it with a stall. -/
theorem State.StuckAt.of_orStall {s t : State} {st : Stage} {j : Nat} {f o k : State → Result} (hidle : s.active = none)
    (hf : f s = orStall (o s) k) (hf' : ∀ c, f (s.retried c) = orStall (o (s.retried c)) k)
    (ho : ∀ u, o s = .next u → u = s.select st j ∨ s.Emits st j u)
    (hretried : o s = .next (s.select st j) → ∀ c, o (s.retried c) = .next ((s.retried c).select st j))
    (hk : ∀ u v, u.progress = true → k u = .next v → v.progress = true)
    (h : f s = .next t) (hquiet : t.progress = false) : s.StuckAt f t := by
  have hturn := hf ▸ h
  obtain ⟨u, hu, hrest⟩ := orStall_eq_next.mp hturn
  obtain rfl | hemits := ho u hu
  · refine .of_next h (hf.trans (hu ▸ orStall_select k hidle)) fun c => ?_
    rw [hf' c, hretried hu c]
    exact orStall_select k hidle
  · have hprogress : t.progress = true := by
      obtain ⟨-, hk'⟩ | ⟨-, rfl⟩ := hrest
      · exact hk u t hemits.progress hk'
      · exact hemits.progress
    exact absurd (hprogress.symm.trans hquiet) (by decide)

/-! ### The first turn of each loop -/

section Turns

variable {n : Nat} {s : State}

theorem retireLoop_of_empty (h : s.robCount = 0) : retireLoop n s = .next s := by
  cases n with
  | zero => rfl
  | succ n => exact if_pos h

theorem retireLoop_succ {e : RobEntry} (hcount : s.robCount ≠ 0) (he : s.rob[s.robHead]? = some e) :
    retireLoop (n + 1) s = orStall (present .retire e.inst s) (retireLoop n) := by
  simp only [retireLoop, if_neg hcount, he]

theorem executeLoop_of_empty (h : s.xq = []) : executeLoop n s = .next s := by
  cases n with
  | zero => rfl
  | succ n => simp only [executeLoop, h]

theorem executeLoop_succ {j : Nat} {rest : List Nat} (h : s.xq = j :: rest) :
    executeLoop (n + 1) s = orStall (present .execute j s) (executeLoop n) := by
  simp only [executeLoop, h]

theorem dispatchLoop_of_empty (h : s.dq = []) : dispatchLoop n s = .next s := by
  cases n with
  | zero => rfl
  | succ n => simp only [dispatchLoop, h]

theorem dispatchLoop_succ {j : Nat} {rest : List Nat} (h : s.dq = j :: rest) :
    dispatchLoop (n + 1) s = orStall (present .dispatch j s) (dispatchLoop n) := by
  simp only [dispatchLoop, h]

theorem decodeLoop_of_empty (h : s.fq = []) : decodeLoop n s = .next s := by
  cases n with
  | zero => rfl
  | succ n => simp only [decodeLoop, h]

theorem decodeLoop_succ {j : Nat} {rest : List Nat} (h : s.fq = j :: rest) :
    decodeLoop (n + 1) s = orStall (present .decode j s) (decodeLoop n) := by
  simp only [decodeLoop, h]

theorem fetchLoop_of_end (h : ¬s.fetchPtr < s.progLen) : fetchLoop n s = .next s := by
  cases n with
  | zero => rfl
  | succ n => exact if_neg h

theorem fetchLoop_succ (h : s.fetchPtr < s.progLen) :
    fetchLoop (n + 1) s = orStall (presentFetched s) (fetchLoop n) := if_pos h

theorem issueScan_of_no_room {k : Nat} {ks : List Nat} (h : (n = 0 || s.xqFull) = true) :
    issueScan (k :: ks) n s = .next s := by
  rw [issueScan, if_pos h]

theorem issueScan_of_idle_station {k : Nat} {ks : List Nat} (hroom : ¬(n = 0 || s.xqFull) = true)
    (h : s.rs[k]?.bind Station.held = none) : issueScan (k :: ks) n s = issueScan ks n s := by
  rw [issueScan, if_neg hroom, h]

theorem issueScan_of_held {k j : Nat} {ks : List Nat} (hroom : ¬(n = 0 || s.xqFull) = true)
    (h : s.rs[k]?.bind Station.held = some j) :
    issueScan (k :: ks) n s = andThen (present .issue j s) fun t =>
      if t.active.isNone then issueScan ks (n - 1) t else issueScan ks n t.deselect := by
  rw [issueScan, if_neg hroom, h]

end Turns

/-! ### Each procedure -/

theorem retireLoop_stuck (n : Nat) : StuckUnlessProgress (retireLoop n) := by
  intro s t hidle h hquiet
  by_cases hempty : s.robCount = 0
  · exact .of_next h (retireLoop_of_empty hempty) fun _ => retireLoop_of_empty hempty
  · cases n with
    | zero => exact .of_next h rfl fun _ => rfl
    | succ n =>
      cases he : s.rob[s.robHead]? with
      | none => simp [retireLoop, hempty, he] at h
      | some e =>
        exact .of_orStall hidle (retireLoop_succ hempty he) (fun _ => retireLoop_succ hempty he)
          (fun _ => present_stalls_or_emits) (present_retried (by decide))
          (fun _ _ => (progress_keptInStage .retire).retireLoop) h hquiet

theorem executeLoop_stuck (n : Nat) : StuckUnlessProgress (executeLoop n) := by
  intro s t hidle h hquiet
  cases hxq : s.xq with
  | nil => exact .of_next h (executeLoop_of_empty hxq) fun _ => executeLoop_of_empty hxq
  | cons j rest =>
    cases n with
    | zero => exact .of_next h rfl fun _ => rfl
    | succ n =>
      exact .of_orStall hidle (executeLoop_succ hxq) (fun _ => executeLoop_succ hxq)
        (fun _ => present_stalls_or_emits) (present_retried (by decide))
        (fun _ _ => (progress_keptInStage .execute).executeLoop) h hquiet

theorem dispatchLoop_stuck (n : Nat) : StuckUnlessProgress (dispatchLoop n) := by
  intro s t hidle h hquiet
  cases hdq : s.dq with
  | nil => exact .of_next h (dispatchLoop_of_empty hdq) fun _ => dispatchLoop_of_empty hdq
  | cons j rest =>
    cases n with
    | zero => exact .of_next h rfl fun _ => rfl
    | succ n =>
      exact .of_orStall hidle (dispatchLoop_succ hdq) (fun _ => dispatchLoop_succ hdq)
        (fun _ => present_stalls_or_emits) (present_retried (by decide))
        (fun _ _ => (progress_keptInStage .dispatch).dispatchLoop) h hquiet

theorem decodeLoop_stuck (n : Nat) : StuckUnlessProgress (decodeLoop n) := by
  intro s t hidle h hquiet
  cases hfq : s.fq with
  | nil => exact .of_next h (decodeLoop_of_empty hfq) fun _ => decodeLoop_of_empty hfq
  | cons j rest =>
    cases n with
    | zero => exact .of_next h rfl fun _ => rfl
    | succ n =>
      exact .of_orStall hidle (decodeLoop_succ hfq) (fun _ => decodeLoop_succ hfq)
        (fun _ => present_stalls_or_emits) (present_retried (by decide))
        (fun _ _ => (progress_keptInStage .decode).decodeLoop) h hquiet

theorem fetchLoop_stuck (n : Nat) : StuckUnlessProgress (fetchLoop n) := by
  intro s t hidle h hquiet
  by_cases hend : s.fetchPtr < s.progLen
  · cases n with
    | zero => exact .of_next h rfl fun _ => rfl
    | succ n =>
      exact .of_orStall hidle (fetchLoop_succ hend) (fun _ => fetchLoop_succ hend)
        (fun _ => presentFetched_stalls_or_emits) presentFetched_retried
        (fun _ _ => (progress_keptInStage .fetch).fetchLoop) h hquiet
  · exact .of_next h (fetchLoop_of_end hend) fun _ => fetchLoop_of_end hend

/-- `complete` looks at every candidate; what it leaves is the same where none is due. -/
theorem completeScan_unless_progress {js : List Nat} {s t : State} (hidle : s.active = none)
    (h : completeScan js s = .next t) (hquiet : t.progress = false) : t = s := by
  induction js with
  | nil =>
    cases h
    rfl
  | cons j js ih =>
    obtain ⟨u, hu, hrest⟩ := andThen_eq_next.mp h
    obtain rfl | hemits := present_stalls_or_emits hu
    · rw [State.deselect_select s .complete j hidle] at hrest
      exact ih hrest
    · have hprogress : t.progress = true :=
        (progress_keptInStage .complete).completeScan (s := u.deselect) hemits.progress hrest
      exact absurd (hprogress.symm.trans hquiet) (by decide)

/-- `issue` looks at every station, and passes each one over. -/
theorem issueScan_stuck (ks : List Nat) (n : Nat) : StuckUnlessProgress (issueScan ks n) := by
  intro s t hidle h hquiet
  induction ks with
  | nil => exact .of_next h rfl fun _ => rfl
  | cons k ks ih =>
    by_cases hroom : (n = 0 || s.xqFull) = true
    · exact .of_next h (issueScan_of_no_room hroom) fun _ => issueScan_of_no_room hroom
    · cases hheld : s.rs[k]?.bind Station.held with
      | none =>
        rw [issueScan_of_idle_station hroom hheld] at h
        obtain ⟨hsame, hretried⟩ := ih h
        exact ⟨hsame, fun c => (issueScan_of_idle_station (s := s.retried c) hroom hheld).trans (hretried c)⟩
      | some j =>
        rw [issueScan_of_held hroom hheld] at h
        obtain ⟨u, hu, hrest⟩ := andThen_eq_next.mp h
        obtain rfl | hemits := present_stalls_or_emits hu
        · have hpassed : issueScan ks n s = .next t := by
            simpa [State.deselect_select s .issue j hidle] using hrest
          obtain ⟨hsame, hretried⟩ := ih hpassed
          refine ⟨hsame, fun c => (issueScan_of_held (s := s.retried c) hroom hheld).trans ?_⟩
          rw [present_retried (by decide) hu c, andThen_next]
          simpa [State.deselect_select (s.retried c) .issue j hidle] using hretried c
        · have hprogress : t.progress = true := by
            rw [if_pos (by simp [hemits.idle])] at hrest
            exact (progress_keptInStage .issue).issueScan hemits.progress hrest
          exact absurd (hprogress.symm.trans hquiet) (by decide)

/-! ## The whole cycle -/

/-- A cycle in which no procedure changes anything. -/
theorem cycleStep_of_stuck {s : State} (h1 : retireLoop s.cfg.width (cycleStart s) = .next s)
    (h2 : completeScan s.candidates s = .next s) (h3 : executeLoop s.cfg.width s = .next s)
    (h4 : issueScan s.scanOrder s.cfg.width s = .next s) (h5 : dispatchLoop s.cfg.width s = .next s)
    (h6 : decodeLoop s.cfg.width s = .next s) (h7 : fetchLoop s.cfg.width s = .next s) :
    cycleStep s = .next (cycleEnd s) :=
  cycleStep_eq_next.mpr ⟨s, s, stagesBeforeFetch_eq_next.mpr ⟨s, s, s, s, s, h1, h2, h3, h4, h5, h6⟩, h7, rfl⟩

/-- A cycle that advances nothing changes nothing between its start and its end, and with an empty CQ no later cycle
would (R139). -/
theorem cycleStep_without_progress {s t : State} (hidle : s.active = none) (h : cycleStep s = .next t)
    (hquiet : t.progress = false) :
    t = cycleEnd (cycleStart s)
      ∧ (s.cq = [] → ∀ c, cycleStep ((cycleStart s).retried c) = .next (cycleEnd ((cycleStart s).retried c))) := by
  obtain ⟨s1, s2, s3, s4, s5, s6, s7, h1, h2, h3, h4, h5, h6, h7, rfl⟩ := cycleStep_stages h
  have hidle : (cycleStart s).active = none := hidle
  have q7 : s7.progress = false := (cycleEnd_progress s7).symm.trans hquiet
  have backwards : ∀ {u v : State}, (u.progress = true → v.progress = true) → v.progress = false →
      u.progress = false := fun hkeep hv => Bool.eq_false_iff.mpr fun hu => by
    rw [hkeep hu] at hv
    cases hv
  have q6 := backwards (fun hp => (progress_keptInStage .fetch).fetchLoop hp h7) q7
  have q5 := backwards (fun hp => (progress_keptInStage .decode).decodeLoop hp h6) q6
  have q4 := backwards (fun hp => (progress_keptInStage .dispatch).dispatchLoop hp h5) q5
  have q3 := backwards (fun hp => (progress_keptInStage .issue).issueScan hp h4) q4
  have q2 := backwards (fun hp => (progress_keptInStage .execute).executeLoop hp h3) q3
  have q1 := backwards (fun hp => (progress_keptInStage .complete).completeScan hp h2) q2
  obtain ⟨rfl, r1⟩ := retireLoop_stuck _ _ _ hidle h1 q1
  obtain rfl := completeScan_unless_progress hidle h2 q2
  obtain ⟨rfl, r3⟩ := executeLoop_stuck _ _ _ hidle h3 q3
  obtain ⟨rfl, r4⟩ := issueScan_stuck _ _ _ _ hidle h4 q4
  obtain ⟨rfl, r5⟩ := dispatchLoop_stuck _ _ _ hidle h5 q5
  obtain ⟨rfl, r6⟩ := decodeLoop_stuck _ _ _ hidle h6 q6
  obtain ⟨rfl, r7⟩ := fetchLoop_stuck _ _ _ hidle h7 q7
  refine ⟨rfl, fun hcq c => cycleStep_of_stuck ?_ ?_ (r3 c) (r4 c) (r5 c) (r6 c) (r7 c)⟩
  · have hstart : cycleStart ((cycleStart s).retried c) = (cycleStart s).retried c :=
      congrArg (State.retried · c) (cycleStart_cycleStart s)
    rw [hstart]
    exact r1 c
  · have hnone : ((cycleStart s).retried c).candidates = [] :=
      (congrArg (List.take s.cfg.width) hcq).trans List.take_nil
    rw [hnone]
    rfl

/-- Settles O55: a cycle that aborts advanced nothing with CQ empty, so the next one finds every stage stuck and the
watchdog fires again. -/
theorem abortIsPermanent : Obligations.AbortIsPermanent := by
  intro s t hidle hs hmode h ht
  obtain ⟨-, haborted, -, -⟩ := cycleEndsAsWatchdogSays s t hs h
  obtain ⟨hadmitted, hrst⟩ := performsCycle_step hs h
  obtain ⟨hunfinished, hquiet, -⟩ := haborted.mp ht
  obtain ⟨rfl, hretried⟩ := cycleStep_without_progress hidle ((step_of_performsCycle hs).mp h) hquiet
  obtain ⟨hleft, hfires⟩ := cycleEnd_aborted (s := cycleStart s) hs.2.2 ht
  have hcq : s.cq = [] := by
    obtain ⟨-, hliteral | hcq⟩ := State.watchdogFires_iff.mp hfires
    · exact absurd (hmode.symm.trans hliteral) (by decide)
    · exact hcq
  have hstep := hretried hcq (s.cycle + 1)
  rw [cycleEnd_of_watchdog (s := (cycleStart s).retried (s.cycle + 1)) hleft hfires] at hstep
  rw [cycleEnd_of_watchdog hleft hfires] at hadmitted hrst ⊢
  exact (step_of_performsCycle (s := (cycleStart s).retried (s.cycle + 1)) ⟨hadmitted, hrst, rfl⟩).mpr hstep

end Sys2Proof.Machine
end

section
/-!
SUPPORT. In one cycle an instruction advances at most once (R134): what it has passed in this cycle carries a
timestamp, which the stage that advances it and the stages behind that one have not set.
-/
namespace Sys2Proof.Machine

/-! ## The stages an instruction has still to pass -/

/-- The next stage of the pipeline. -/
def Stage.later : Stage → Stage
  | .fetch => .decode
  | .decode => .dispatch
  | .dispatch => .issue
  | .issue => .execute
  | .execute => .complete
  | .complete => .retire
  | .retire => .retire

theorem Stage.rank_later (st : Stage) : st.later.rank = st.rank - 1 := by cases st <;> rfl

theorem Stage.rank_injective : Function.Injective Stage.rank := by
  intro st st' h
  cases st <;> cases st' <;> simp_all [Stage.rank]

/-- What goes over from a stage to the next one goes over to every stage behind it. -/
theorem Stage.of_rank_le {P : Stage → Prop} (hlater : ∀ st, P st → P st.later) {st st' : Stage}
    (hle : st'.rank ≤ st.rank) (h : P st) : P st' := by
  obtain ⟨n, hn⟩ : ∃ n, st.rank = st'.rank + n := ⟨st.rank - st'.rank, by omega⟩
  induction n generalizing st with
  | zero => rwa [← Stage.rank_injective hn]
  | succ n ih =>
    have hrank : st.later.rank = st'.rank + n := by
      rw [Stage.rank_later]
      omega
    exact ih (by omega) (hlater st h) hrank

/-- An instruction that has not passed a stage has passed none behind it (R42, R86). -/
theorem State.Structured.unset_later {s : State} (h : s.Structured) {j : Nat} (hj : j < s.progLen) {st : Stage}
    (hunset : (s.record j).ts.get st = unset) : (s.record j).ts.get st.later = unset := by
  have hc := h.coherent hj
  have hloc := h.locates hj
  by_contra hset
  cases st with
  | fetch => exact hloc.fetch_set.mpr ((hloc.decode_set.mp hset).trans_le (Nat.sub_le _ _)) hunset
  | decode =>
    have hfront := congrArg List.length h.placed.front_order
    have hle := h.placed.dispatched_le
    have hdispatched := hloc.renamed_iff.mp (hc.dispatch_set.mp hset)
    rw [List.length_append, List.length_range'] at hfront
    exact hloc.decode_set.mpr (by omega) hunset
  | dispatch => exact hc.dispatch_set.mpr (hc.issued_renamed (hc.issue_set.mp hset)) hunset
  | issue => exact hc.issue_set.mpr (hc.executed_issued (decide_eq_true hset)) hunset
  | execute => exact of_decide_eq_true (hc.completed_executed (hc.complete_set.mp hset)) hunset
  | complete => exact hc.complete_set.mpr (hc.retired_completed (hc.retire_set.mp hset)) hunset
  | retire => exact hset hunset

/-! ## What the trace says of the timestamps -/

/-- The trace of a structured state: every event left its timestamp, and a later event of the same instruction is of a
later stage of the pipeline. -/
structure State.Passed (s : State) : Prop where
  structured : s.Structured
  stamped : ∀ e ∈ s.trace, (s.record e.index).ts.get e.stage ≠ unset
  pipelined : s.trace.Pairwise fun e f => e.index = f.index → f.stage.rank < e.stage.rank

theorem State.Passed.of_frame {s t : State} (h : s.Passed) (ht : t.Structured) (htrace : t.trace = s.trace)
    (hts : ∀ m, (t.record m).ts = (s.record m).ts) : t.Passed := by
  refine ⟨ht, fun e he => ?_, htrace ▸ h.pipelined⟩
  rw [htrace] at he
  rw [hts]
  exact h.stamped e he

/-- An advance of an instruction in a stage that it had not passed. -/
theorem State.Passed.advance {s t : State} {j : Nat} {st : Stage} {f : InstrRecord → InstrRecord} (h : s.Passed)
    (ht : t.Structured) (hj : j < s.progLen) (hunset : (s.record j).ts.get st = unset)
    (htrace : t.trace = s.trace ++ [⟨s.cycle, st, j⟩]) (hrecs : t.recs = s.recs.modify j f)
    (hf : ∀ r, (f r).ts = r.ts.set s.cycle st) : t.Passed := by
  have hself : (t.record j).ts = (s.record j).ts.set s.cycle st := by
    rw [State.record_self_of_modify hrecs (h.structured.lt_recs_length hj), hf]
  have hnow : (t.record j).ts.get st ≠ unset := by
    rw [hself, Timestamps.get_set_self]
    exact natCast_ne_unset _
  refine ⟨ht, fun e he => ?_, ?_⟩
  · rw [htrace, List.mem_append, List.mem_singleton] at he
    obtain he | rfl := he
    · have hold := h.stamped e he
      by_cases hej : e.index = j
      · by_cases hst : e.stage = st
        · rwa [hej, hst]
        · rw [hej] at hold ⊢
          rwa [hself, Timestamps.get_set_of_ne _ _ _ _ hst]
      · rwa [State.record_other_of_modify hrecs hej]
    · exact hnow
  · rw [htrace]
    refine List.pairwise_append.mpr ⟨h.pipelined, List.pairwise_singleton .., fun e he g hg hindex => ?_⟩
    rw [List.mem_singleton.mp hg] at hindex ⊢
    refine Nat.lt_of_not_le fun hle => h.stamped e he ?_
    rw [hindex]
    exact Stage.of_rank_le (P := fun st => (s.record j).ts.get st = unset)
      (fun _ => h.structured.unset_later hj) hle hunset

theorem State.record_congr {s t : State} (h : t.recs = s.recs) (m : Nat) : t.record m = s.record m := by
  rw [State.record, h, State.record]

/-! ## Every move is in a stage that its instruction had not passed -/

theorem passed_keptByRetire : KeptByRetire State.Passed := by
  intro s e r v h hcount he hr hdone hv
  have hs := h.structured
  have hj := hs.lt_progLen_of_getElem? hr
  have hinst := hs.head_inst hcount he
  have hunset : (s.record e.inst).ts.get .retire = unset := by
    by_contra hset
    have hretired := (hs.locates hj).retired_iff.mp ((hs.coherent hj).retire_set.mp hset)
    omega
  have ht := structured_keptByRetire s e r v hs hcount he hr hdone hv
  have hfixed := State.Fixed.of_commit hv
  have hrecs : v.recs = s.recs := by
    obtain ⟨-, rfl⟩ | ⟨a, p, old, -, -, -, -, rfl⟩ := State.commit_eq_ok.mp hv <;> rfl
  have hrecord := State.record_congr hrecs
  have hpassed : v.Passed := h.of_frame (hs.commit hv) (trace_of_commit hv).1 fun m => congrArg _ (hrecord m)
  refine hpassed.advance ht (hfixed.progLen ▸ hj) ?_ rfl (v.retireMove_recs e.inst) fun _ => rfl
  rw [hrecord]
  exact hunset

theorem passed_keptByComplete : KeptByComplete State.Passed := by
  intro s j r v h hmem hr hdue hv
  have hs := h.structured
  have hj := h.structured.placed.cq_lt j hmem
  have hunset : (s.record j).ts.get .complete = unset := by
    by_contra hset
    have hdone := (hs.coherent hj).complete_set.mp hset
    have hnot := ((hs.locates hj).cq_iff.mp hmem).2
    exact absurd (hdone.symm.trans hnot) (by decide)
  have ht := structured_keptByComplete s j r v hs hmem hr hdue hv
  obtain ⟨-, hsame⟩ | ⟨p, -, -, rfl⟩ := markReady_broadcast_eq_ok.mp hv
  · rw [hsame] at ht ⊢
    exact h.advance ht hj hunset rfl (s.completeMove_recs j) fun _ => rfl
  · have hts : ∀ m, ((s.signalled p).record m).ts = (s.record m).ts :=
      State.signalled_field InstrRecord.ts s p fun _ => rfl
    have hpassed : (s.signalled p).Passed := h.of_frame (hs.signalled p) rfl hts
    refine hpassed.advance ht hj ?_ rfl ((s.signalled p).completeMove_recs j) fun _ => rfl
    rw [hts]
    exact hunset

theorem passed_keptAfterComplete : KeptAfterComplete State.Passed where
  deselect s h := by rwa [State.deselect_of_idle h.structured.shaped.idle]
  execute s j rest r k type h hxq hr hroom hk htype := by
    have hs := h.structured
    have hmem : j ∈ s.xq := by simp [hxq]
    have hj := hs.placed.xq_lt j hmem
    have hunset : (s.record j).ts.get .execute = unset := by
      have hnot := ((hs.locates hj).xq_iff.mp hmem).2
      exact not_not.mp (of_decide_eq_false hnot)
    exact h.advance (structured_keptAfterComplete.execute s j rest r k type hs hxq hr hroom hk htype) hj hunset rfl
      (s.executeMove_recs j k type) fun _ => rfl
  issue s k st j r h hst hheld hr hroom hready hissued := by
    have hs := h.structured
    have hj := hs.lt_progLen_of_getElem? hr
    have hunset : (s.record j).ts.get .issue = unset := by
      by_contra hset
      have hdone := (hs.coherent hj).issue_set.mp hset
      rw [State.record_eq_of_getElem? hr, hissued] at hdone
      cases hdone
    exact h.advance (structured_keptAfterComplete.issue s k st j r hs hst hheld hr hroom hready hissued) hj hunset
      rfl (s.issueMove_recs j) fun _ => rfl
  dispatch s j rest r k src1 src2 n h hdq hr hk h1 h2 hn := by
    have hs := h.structured
    have hj := hs.lt_progLen_of_getElem? hr
    have hnext := (hs.dq_head hdq).1
    have hunset : (s.record j).ts.get .dispatch = unset := by
      by_contra hset
      have hdispatched := (hs.locates hj).renamed_iff.mp ((hs.coherent hj).dispatch_set.mp hset)
      omega
    have ht := structured_keptAfterComplete.dispatch s j rest r k src1 src2 n hs hdq hr hk h1 h2 hn
    have hfixed := State.Fixed.of_renameDestination hn
    have hrecord := State.record_congr (renameDestination_frame hn).1
    have hpassed : n.state.Passed :=
      h.of_frame (hs.renameDestination hn) (trace_of_renameDestination hn).1 fun m => congrArg _ (hrecord m)
    refine hpassed.advance ht (hfixed.progLen ▸ hj) ?_ rfl (n.state.dispatchMove_recs ..) fun _ => rfl
    rw [hrecord]
    exact hunset
  decode s j rest h hfq hroom := by
    have hs := h.structured
    obtain ⟨hnext, hcount⟩ := hs.fq_head hfq
    have hlen : 0 < s.fq.length := by simp [hfq]
    have hle := hs.placed.fetchPtr_le
    have hj : j < s.progLen := by omega
    have hunset : (s.record j).ts.get .decode = unset := by
      by_contra hset
      have hdecoded := (hs.locates hj).decode_set.mp hset
      omega
    exact h.advance (structured_keptAfterComplete.decode s j rest hs hfq hroom) hj hunset rfl (s.decodeMove_recs j)
      fun _ => rfl
  fetch s h hlt hroom := by
    have hs := h.structured
    have hunset : (s.record s.fetchPtr).ts.get .fetch = unset := by
      by_contra hset
      exact Nat.lt_irrefl _ ((hs.locates hlt).fetch_set.mp hset)
    exact h.advance (structured_keptAfterComplete.fetch s hs hlt hroom) hlt hunset rfl s.fetchMove_recs fun _ => rfl

/-- Settles O42: along the trace the stages go backwards through the pipeline (O37), and those of one instruction go
forwards. -/
theorem oneAdvancePerInstructionPerCycle : Obligations.OneAdvancePerInstructionPerCycle := by
  intro s t hs _ hcycle h
  obtain ⟨-, hordered⟩ := traceFollowsStageOrder s t hcycle h
  have hstart : (cycleStart s).Passed := ⟨hs.cycleStart, by simp, by simp⟩
  obtain ⟨u, hu, rfl⟩ := cycle_keeps_of_nodup passed_keptByRetire passed_keptByComplete passed_keptAfterComplete
    (fun _ h => h.structured.placed.cq_nodup) hstart ((step_of_performsCycle hcycle).mp h)
  rw [cycleEnd_trace] at hordered ⊢
  rw [List.Nodup, List.pairwise_map]
  refine (hordered.and hu.pipelined).imp fun ⟨hle, hlt⟩ hindex => ?_
  exact Nat.not_lt.mpr hle (hlt hindex)

end Sys2Proof.Machine
end

section
/-!
SUPPORT. Where the kind of an instruction does not enter (R160), and what a cycle fetches (R47, R166, R181).
-/
namespace Sys2Proof.Machine

/-! ## The kind -/

/-- Outside dispatch the meaning reads the operands of an instruction alone: the kind is an argument of dispatch
only (R160). -/
theorem exec_eq_of_operands {i i' : Instr} {s : State} (hdst : i.dst = i'.dst) (hsrc1 : i.src1 = i'.src1)
    (hsrc2 : i.src2 = i'.src2) (hnot : ∀ j, s.active ≠ some ⟨.dispatch, j⟩) : exec i s = exec i' s := by
  cases hactive : s.active with
  | none => rw [exec_of_idle i hactive, exec_of_idle i' hactive]
  | some selection =>
    obtain ⟨st, j⟩ := selection
    cases st with
    | dispatch => exact absurd hactive (hnot j)
    | fetch => rw [exec_fetch i hactive, exec_fetch i' hactive]
    | decode => rw [exec_decode i hactive, exec_decode i' hactive]
    | issue => rw [exec_issue i hactive, exec_issue i' hactive, hsrc1, hsrc2]
    | execute => rw [exec_execute i hactive, exec_execute i' hactive]
    | complete => rw [exec_complete i hactive, exec_complete i' hactive]
    | retire => rw [exec_retire i hactive, exec_retire i' hactive, hdst]

/-- Settles O26: the three instructions have the same operands. -/
theorem kindEntersOnlyAtDispatch : Obligations.KindEntersOnlyAtDispatch := fun _ _ _ _ hnot =>
  ⟨exec_eq_of_operands rfl rfl rfl hnot, exec_eq_of_operands rfl rfl rfl hnot⟩

/-! ## The fetch pointer -/

/-- The stages before fetch keep what every passage outside fetch keeps (R131). -/
theorem stagesBeforeFetch_keeps {P : State → Prop}
    (hkeep : ∀ s st j u, st ≠ .fetch → P s → present st j s = .next u → P u.deselect) {s t : State}
    (hs : P (cycleStart s)) (h : stagesBeforeFetch s = .next t) : P t := by
  obtain ⟨s1, s2, s3, s4, s5, h1, h2, h3, h4, h5, h6⟩ := stagesBeforeFetch_eq_next.mp h
  have p1 := retireLoop_preserves (fun _ _ _ hp _ _ => hkeep _ _ _ _ (by decide) hp) _ _ _ hs h1
  have p2 := completeScan_preserves (fun _ _ _ hp => hkeep _ _ _ _ (by decide) hp) _ _ _ p1 h2
  have p3 := executeLoop_preserves (fun _ _ _ _ hp _ => hkeep _ _ _ _ (by decide) hp) _ _ _ p2 h3
  have p4 := issueScan_preserves (fun _ _ _ _ _ hp _ _ => hkeep _ _ _ _ (by decide) hp) _ _ _ _ p3 h4
  have p5 := dispatchLoop_preserves (fun _ _ _ _ hp _ => hkeep _ _ _ _ (by decide) hp) _ _ _ p4 h5
  exact decodeLoop_preserves (fun _ _ _ _ hp _ => hkeep _ _ _ _ (by decide) hp) _ _ _ p5 h6

/-- The trace of `t` has the fetches of the instructions from the fetch pointer of `s` up to that of `t`, which has
not gone past N. -/
structure State.FetchedFrom (s t : State) : Prop where
  progLen : t.progLen = s.progLen
  fetched : t.advancedBy .fetch = List.range' s.fetchPtr (t.fetchPtr - s.fetchPtr)
  le_fetchPtr : s.fetchPtr ≤ t.fetchPtr
  fetchPtr_le : t.fetchPtr ≤ max s.fetchPtr s.progLen

namespace State.FetchedFrom

variable {s t u : State}

/-- Before the first stage nothing is fetched (R132). -/
theorem start (s : State) : s.FetchedFrom (cycleStart s) where
  progLen := rfl
  fetched := by
    rw [cycleStart_fetchPtr, Nat.sub_self]
    rfl
  le_fetchPtr := Nat.le_refl _
  fetchPtr_le := Nat.le_max_left ..

theorem of_frame (h : s.FetchedFrom t) (hlen : u.progLen = t.progLen) (hptr : u.fetchPtr = t.fetchPtr)
    (hfetched : u.advancedBy .fetch = t.advancedBy .fetch) : s.FetchedFrom u where
  progLen := hlen.trans h.progLen
  fetched := by rw [hfetched, hptr, h.fetched]
  le_fetchPtr := hptr ▸ h.le_fetchPtr
  fetchPtr_le := hptr ▸ h.fetchPtr_le

/-- No stage but fetch moves the pointer or leaves a fetch in the trace (R166). -/
theorem present {st : Stage} {j : Nat} (h : s.FetchedFrom t) (hst : st ≠ .fetch)
    (hu : Machine.present st j t = .next u) : s.FetchedFrom u.deselect := by
  obtain rfl | hemits := present_stalls_or_emits hu
  · exact h.of_frame rfl rfl rfl
  · obtain ⟨r, -, hexec⟩ := present_eq_next.mp hu
    obtain ⟨-, hlen, -⟩ := noInstructionWritesMemory _ _ _ hexec
    obtain ⟨-, -, -, -, -, -, hptr, -⟩ := eachStageWritesItsOwnState _ _ _ st j rfl hexec
    have hfetched := State.advancedBy_of_trace hemits.trace .fetch
    rw [if_neg hst, List.append_nil] at hfetched
    exact h.of_frame hlen (hptr hst) hfetched

/-- Fetch takes the instruction at the pointer and moves it by one (R181). -/
theorem fetchMove (h : s.FetchedFrom t) (hlt : t.fetchPtr < t.progLen) : s.FetchedFrom t.fetchMove where
  progLen := h.progLen
  fetched := by
    have hle := h.le_fetchPtr
    have htrace : t.fetchMove.trace = t.trace ++ [⟨t.cycle, .fetch, t.fetchPtr⟩] := rfl
    have hptr : t.fetchMove.fetchPtr - s.fetchPtr = t.fetchPtr - s.fetchPtr + 1 := Nat.succ_sub hle
    rw [State.advancedBy_of_trace htrace, if_pos rfl, h.fetched, hptr, List.range'_1_concat,
      Nat.add_sub_cancel' hle]
  le_fetchPtr := Nat.le_succ_of_le h.le_fetchPtr
  fetchPtr_le := le_max_of_le_right (h.progLen ▸ hlt)

theorem presentFetched (h : s.FetchedFrom t) (hlt : t.fetchPtr < t.progLen)
    (hu : Machine.presentFetched t = .next u) : s.FetchedFrom u.deselect := by
  obtain rfl | ⟨-, rfl⟩ := presentFetched_cases hu
  · exact h.of_frame rfl rfl rfl
  · exact h.fetchMove hlt

end State.FetchedFrom

theorem cycleStep_fetchedFrom {s t : State} (h : cycleStep s = .next t) : s.FetchedFrom t := by
  obtain ⟨u, v, hu, hv, rfl⟩ := cycleStep_eq_next.mp h
  have hbefore : s.FetchedFrom u := stagesBeforeFetch_keeps (fun _ _ _ _ hst hp => hp.present hst) (.start s) hu
  have hafter : s.FetchedFrom v := fetchLoop_preserves (fun _ _ hp => hp.presentFetched) _ _ _ hbefore hv
  exact hafter.of_frame (cycleEnd_progLen v) (cycleEnd_fetchPtr v) (State.advancedBy_congr (cycleEnd_trace v) _)

/-- Settles O40: only fetch moves the pointer, by one past the instruction it takes and only below N. -/
theorem fetchPointerCountsFetches : Obligations.FetchPointerCountsFetches := by
  intro s t hs h
  have hfetched := cycleStep_fetchedFrom ((step_of_performsCycle hs).mp h)
  have hle := hfetched.le_fetchPtr
  have hbound := hfetched.fetchPtr_le
  refine ⟨hfetched.fetched, hle, fun hinside => by omega, fun hend => ?_⟩
  have hstays : t.fetchPtr = s.fetchPtr := by omega
  refine ⟨hstays, ?_⟩
  rw [hfetched.fetched, hstays, Nat.sub_self, List.range'_zero]

end Sys2Proof.Machine
end

section
/-!
SUPPORT. The station that dispatch takes: the lowest free one of the type (R202).
-/
namespace Sys2Proof.Machine

/-! ## The scan of the two station lists -/

/-- A static and a dynamic part that together are a free station of the type (R44, R202). -/
def freeOfType (kind : Kind) (p : StationSpec × Station) : Bool := decide (p.1.type = kind ∧ p.2.busy = false)

theorem freeOfType_iff {kind : Kind} {p : StationSpec × Station} :
    freeOfType kind p = true ↔ p.1.type = kind ∧ p.2.busy = false := decide_eq_true_iff

/-- The scan is the library's search through the stations, its index counted from `n`. -/
theorem findFree_eq_findIdx? (kind : Kind) (cs : List StationSpec) (rs : List Station) (n : Nat) :
    findFree kind cs rs n = ((cs.zip rs).findIdx? (freeOfType kind)).map (n + ·) := by
  induction cs generalizing rs n with
  | nil => rfl
  | cons c cs ih =>
    cases rs with
    | nil => rfl
    | cons r rs =>
      simp only [findFree, List.zip_cons_cons, List.findIdx?_cons, freeOfType_iff]
      split
      next => rfl
      next => simp only [ih, Option.map_map, Function.comp_def, Nat.add_assoc, Nat.add_comm 1]

/-! ## Free stations of a type -/

/-- Station `k` exists, is of the type, and is not busy (R202). -/
def State.FreeAt (s : State) (kind : Kind) (k : Nat) : Prop :=
  s.stationType k = some kind ∧ ∃ r, s.rs[k]? = some r ∧ r.busy = false

section FreeStation

variable {s : State} {kind : Kind} {k : Nat}

theorem State.freeAt_iff_getElem :
    s.FreeAt kind k ↔ ∃ h : k < (s.cfg.stations.zip s.rs).length,
      freeOfType kind (s.cfg.stations.zip s.rs)[k] = true := by
  constructor
  · rintro ⟨htype, r, hr, hfree⟩
    obtain ⟨c, hc, hkind⟩ := Option.map_eq_some_iff.mp htype
    obtain ⟨hk, hp⟩ := List.getElem?_eq_some_iff.mp (List.getElem?_zip_eq_some (z := (c, r)) |>.mpr ⟨hc, hr⟩)
    exact ⟨hk, hp ▸ freeOfType_iff.mpr ⟨hkind, hfree⟩⟩
  · rintro ⟨hk, hp⟩
    obtain ⟨hkind, hfree⟩ := freeOfType_iff.mp hp
    obtain ⟨hc, hr⟩ := List.getElem?_zip_eq_some.mp (List.getElem?_eq_getElem hk)
    exact ⟨Option.map_eq_some_iff.mpr ⟨_, hc, hkind⟩, _, hr, hfree⟩

/-- The answer is the lowest free station of the type (R202, D8). -/
theorem State.freeStation_eq_some_iff :
    s.freeStation kind = some k ↔ s.FreeAt kind k ∧ ∀ m < k, ¬s.FreeAt kind m := by
  simp only [State.freeStation, findFree_eq_findIdx?, Nat.zero_add, Option.map_id',
    List.findIdx?_eq_some_iff_getElem, State.freeAt_iff_getElem, not_exists]
  exact ⟨fun ⟨hk, hfree, hbelow⟩ => ⟨⟨hk, hfree⟩, fun m hm _ => hbelow m hm⟩,
    fun ⟨⟨hk, hfree⟩, hbelow⟩ => ⟨hk, hfree, fun m hm => hbelow m hm (hm.trans hk)⟩⟩

/-- There is no answer exactly where no station of the type is free: of the free ones, one is the lowest. -/
theorem State.freeStation_eq_none_iff : s.freeStation kind = none ↔ ∀ k, ¬s.FreeAt kind k := by
  classical
  rw [Option.eq_none_iff_forall_ne_some]
  refine ⟨fun hnone k hk => ?_, fun hbusy k hk => hbusy k (State.freeStation_eq_some_iff.mp hk).1⟩
  have hex : ∃ m, s.FreeAt kind m := ⟨k, hk⟩
  exact hnone (Nat.find hex) (State.freeStation_eq_some_iff.mpr ⟨Nat.find_spec hex, fun _ => Nat.find_min hex⟩)

theorem State.not_freeAt_iff :
    ¬s.FreeAt kind k ↔ ∀ r, s.rs[k]? = some r → s.stationType k = some kind → r.busy = true := by
  simp only [State.FreeAt, not_and, not_exists, Bool.not_eq_false]
  exact ⟨fun h r hr htype => h htype r hr, fun h htype r hr => h r hr htype⟩

/-- With a station for each element of RS_CONFIG, a station of the type that is not free is busy (R44). -/
theorem State.not_freeAt_iff_busy (hlen : s.rs.length = s.cfg.stations.length) :
    ¬s.FreeAt kind k ↔ (s.stationType k = some kind → ∃ r, s.rs[k]? = some r ∧ r.busy = true) := by
  rw [State.not_freeAt_iff]
  refine ⟨fun h htype => ?_, fun h r hr htype => ?_⟩
  · obtain ⟨c, hc, -⟩ := Option.map_eq_some_iff.mp htype
    obtain ⟨hk, -⟩ := List.getElem?_eq_some_iff.mp hc
    have hr := List.getElem?_eq_getElem (hlen ▸ hk)
    exact ⟨_, hr, h _ hr htype⟩
  · obtain ⟨r', hr', hbusy⟩ := h htype
    obtain rfl : r = r' := Option.some.inj (hr.symm.trans hr')
    exact hbusy

end FreeStation

/-- Settles O29: the lowest of the free stations, and those below it are busy where they are of the type. -/
theorem freeStationIsLowest : Obligations.FreeStationIsLowest := by
  intro s kind hlen
  refine ⟨fun k => ?_, ?_⟩
  · simp only [State.freeStation_eq_some_iff, State.not_freeAt_iff_busy hlen]
    exact and_assoc
  · simp only [State.freeStation_eq_none_iff, State.not_freeAt_iff]

end Sys2Proof.Machine
end

section
/-!
SUPPORT. What dispatch does with an instruction: its sources and its destination renamed, and its ROB entry, station
and record written (R200, R203, R205 to R208).
-/
namespace Sys2Proof.Machine

/-! ## Renaming and allocation together -/

/-- Dispatch stalls on a precondition, or renames and makes its move (R200 to R208). -/
theorem dispatchStage_eq_next {kind : Kind} {d a b : Operand} {j : Nat} {s t : State} :
    dispatchStage kind d a b j s = .next t ↔
      (s.dispatchStation kind d = none ∧ t = s)
        ∨ ∃ k src1 src2 n, s.dispatchStation kind d = some k ∧ s.renameSource a = .ok src1
            ∧ s.renameSource b = .ok src2 ∧ s.renameDestination d = .ok n
            ∧ n.state.robSlot n.state.robCount < n.state.rob.length
            ∧ t = n.state.dispatchMove j k src1 src2 n.newTag n.oldTag := by
  constructor
  · intro h
    refine (dispatchStage_next h).imp_right ?_
    rintro ⟨k, src1, src2, n, u, hk, h1, h2, hn, hu, rfl⟩
    obtain ⟨hslot, rfl⟩ := State.allocate_eq_ok.mp hu
    exact ⟨k, src1, src2, n, hk, h1, h2, hn, hslot, rfl⟩
  · rintro (⟨hk, rfl⟩ | ⟨k, src1, src2, n, hk, h1, h2, hn, hslot, rfl⟩)
    · exact dispatchStage_of_no_station hk
    · simp only [dispatchStage, hk, h1, h2, hn, State.allocate_eq_ok.mpr ⟨hslot, rfl⟩]
      rfl

/-- The move of dispatch, field by field (R207, R208, R306). -/
theorem State.dispatchMove_eq (s : State) (j k : Nat) (src1 src2 : Snapshot) (newTag oldTag : Option Nat) :
    s.dispatchMove j k src1 src2 newTag oldTag = { s with
      dq := s.dq.tail
      rob := s.rob.set (s.robSlot s.robCount) ⟨j, newTag, oldTag⟩
      robCount := s.robCount + 1
      rs := s.rs.set k { busy := true, inst := some j }
      recs := s.recs.modify j fun r => (r.dispatched src1 src2 newTag k).stamped s.cycle .dispatch
      dispOut := s.dispOut ++ [j]
      trace := s.trace ++ [⟨s.cycle, .dispatch, j⟩]
      progress := true
      active := none } := by
  rw [← s.dispatchMove_recs j k src1 src2 newTag oldTag]
  rfl

/-- A source in the maps is renamed to its tag and its readiness bit, an absent one to NONE and `false` (R205, D26). -/
theorem State.renameSource_of_mapped {s : State} {o : Operand}
    (h : ∀ a ∈ o, ∃ p, s.specMap[a]? = some p ∧ p < s.specReady.length) :
    s.renameSource o = .ok (o.bind fun a => s.specMap[a]?, s.sourceReady o) := by
  cases o with
  | none => rfl
  | some a =>
    obtain ⟨p, hp, hlt⟩ := h a rfl
    refine State.renameSource_eq_ok.mpr (.inr ⟨a, p, s.specReady[p], rfl, hp, List.getElem?_eq_getElem hlt, ?_⟩)
    simp [State.sourceReady, List.getD_eq_getElem?_getD, hp, hlt]

/-- The place behind the occupied entries exists in a ROB of the configured size (R43). -/
theorem State.robSlot_lt {s : State} (h : s.robCount < s.cfg.robSize) (hlen : s.rob.length = s.cfg.robSize) (q : Nat) :
    s.robSlot q < s.rob.length :=
  hlen ▸ Nat.mod_lt _ (Nat.zero_lt_of_lt h)

/-- Told is the mapping before, and NONE without a destination (R206). -/
theorem renameDestination_oldTag {s : State} {d : Operand} {n : Renaming} (hn : s.renameDestination d = .ok n) :
    n.oldTag = d.bind fun a => s.specMap[a]? := by
  obtain ⟨rfl, rfl⟩ | ⟨a, t, rest, old, rfl, -, hmap, -, rfl⟩ := State.renameDestination_eq_ok.mp hn
  · rfl
  · exact hmap.symm

/-- A destination that is renamed finds a register in the free list (R203). -/
theorem free_of_renameDestination {s : State} {d : Operand} {n : Renaming} (hn : s.renameDestination d = .ok n) :
    d = none ∨ s.freeList ≠ [] := by
  obtain ⟨hnone, -⟩ | ⟨a, t, rest, old, -, hfree, -⟩ := State.renameDestination_eq_ok.mp hn
  · exact .inl hnone
  · exact .inr (hfree ▸ List.cons_ne_nil t rest)

/-- Renaming a destination writes the map, the readiness vector and the free list alone (R206). -/
theorem renameDestination_state {s : State} {d : Operand} {n : Renaming} (hn : s.renameDestination d = .ok n) :
    ∃ specMap specReady freeList,
      n.state = { s with specMap := specMap, specReady := specReady, freeList := freeList } := by
  obtain ⟨-, rfl⟩ | ⟨a, t, rest, old, -, -, -, -, rfl⟩ := State.renameDestination_eq_ok.mp hn
  · exact ⟨_, _, _, rfl⟩
  · exact ⟨_, _, _, rfl⟩

/-- Dispatch with every resource: the sources are renamed in the maps before the destination is (R200, R205). -/
theorem exec_dispatch_of_resources {i : Instr} {s : State} {j k : Nat} {n : Renaming}
    (hactive : s.active = some ⟨.dispatch, j⟩) (hcount : s.robCount < s.cfg.robSize)
    (hlen : s.rob.length = s.cfg.robSize) (hk : s.freeStation i.kind = some k) (hsources : s.mapsSources i)
    (hn : s.renameDestination i.dst = .ok n) :
    exec i s = .next (n.state.dispatchMove j k
      (i.src1.bind fun b => s.specMap[b]?, s.sourceReady i.src1)
      (i.src2.bind fun b => s.specMap[b]?, s.sourceReady i.src2) n.newTag n.oldTag) := by
  have hstation := State.dispatchStation_eq_some.mpr ⟨hcount, hk, free_of_renameDestination hn⟩
  have hslot : n.state.robSlot n.state.robCount < n.state.rob.length := by
    obtain ⟨_, _, _, hstate⟩ := renameDestination_state hn
    rw [hstate]
    exact State.robSlot_lt hcount hlen _
  rw [exec_dispatch i hactive]
  exact dispatchStage_eq_next.mpr (.inr ⟨k, _, _, n, hstation, State.renameSource_of_mapped hsources.1,
    State.renameSource_of_mapped hsources.2, hn, hslot, rfl⟩)

/-! ## The statements -/

/-- Settles O16: the destination takes the head of the free list, and the move of dispatch follows. -/
theorem dispatchRenamesDestination : Obligations.DispatchRenamesDestination := by
  intro i s j k a newTag oldTag rest hactive hcount hlen hk hsources hdst hfree hmap hnew
  have hn := State.renameDestination_eq_ok.mpr (.inr ⟨a, newTag, rest, oldTag, hdst, hfree, hmap, hnew, rfl⟩)
  rw [exec_dispatch_of_resources hactive hcount hlen hk hsources hn, State.dispatchMove_eq]
  rfl

/-- Settles O17: without a destination renaming changes nothing, and the move of dispatch follows. -/
theorem dispatchWithoutDestination : Obligations.DispatchWithoutDestination := by
  intro i s j k hactive hcount hlen hk hsources hdst
  have hn : s.renameDestination i.dst = .ok ⟨s, none, none⟩ := State.renameDestination_eq_ok.mpr (.inl ⟨hdst, rfl⟩)
  rw [exec_dispatch_of_resources hactive hcount hlen hk hsources hn, State.dispatchMove_eq]
  rfl

/-- Settles O18: an advance is the move of dispatch after the renaming, which writes neither stations nor ROB. -/
theorem dispatchAllocatesEntryAndStation : Obligations.DispatchAllocatesEntryAndStation := by
  intro i s t j hactive hj hexec hne
  rw [exec_dispatch i hactive, dispatchStage_eq_next] at hexec
  obtain ⟨-, rfl⟩ | ⟨k, src1, src2, n, hk, -, -, hn, hslot, rfl⟩ := hexec
  · exact absurd rfl hne
  obtain ⟨-, hfree, -⟩ := State.dispatchStation_eq_some.mp hk
  obtain ⟨htype, before, hbefore, hidle⟩ := State.freeStation_eq_some hfree
  obtain ⟨hnew, -⟩ := renameDestination_isSome hn
  rw [← renameDestination_oldTag hn]
  obtain ⟨_, _, _, hstate⟩ := renameDestination_state hn
  rw [hstate] at hslot ⊢
  refine ⟨k, before, ((s.record j).dispatched src1 src2 n.newTag k).stamped s.cycle .dispatch, htype, hbefore, hidle,
    rfl, hslot, rfl, rfl, rfl, ?_, hnew, rfl, rfl, rfl⟩
  rw [State.dispatchMove_recs, List.getElem?_modify_eq, State.getElem?_recs hj]
  rfl

end Sys2Proof.Machine
end

section
/-!
SUPPORT. The order in which issue scans the stations (R234, R235, D9), and where issue and execute advance an
instruction (R230 to R232, R236, R240 to R242).
-/
namespace Sys2Proof.Machine

/-! ## The scan order -/

theorem insertByAge_eq_orderedInsert (age : Nat → Nat) (k : Nat) (ks : List Nat) :
    insertByAge age k ks = ks.orderedInsert (age ⁻¹'o (· ≤ ·)) k := by
  induction ks with
  | nil => rfl
  | cons m ms ih => simp only [insertByAge, List.orderedInsert_cons, Order.Preimage, ih]

/-- The model's sort is the library's insertion sort, the stations compared by their ages. -/
theorem sortByAge_eq_insertionSort (age : Nat → Nat) (ks : List Nat) :
    sortByAge age ks = ks.insertionSort (age ⁻¹'o (· ≤ ·)) := by
  induction ks with
  | nil => rfl
  | cons k ks ih => rw [sortByAge, ih, insertByAge_eq_orderedInsert, List.insertionSort_cons]

theorem sortByAge_perm (age : Nat → Nat) (ks : List Nat) : (sortByAge age ks).Perm ks :=
  sortByAge_eq_insertionSort age ks ▸ List.perm_insertionSort _ ks

theorem sortByAge_pairwise (age : Nat → Nat) (ks : List Nat) :
    (sortByAge age ks).Pairwise fun k m => age k ≤ age m :=
  sortByAge_eq_insertionSort age ks ▸ List.pairwise_insertionSort (age ⁻¹'o (· ≤ ·)) ks

/-- STATION_ORDER scans the stations in list order (R234). -/
theorem State.scanOrder_of_stationOrder {s : State} (h : s.cfg.issuePolicy = .stationOrder) :
    s.scanOrder = List.range s.rs.length := by
  rw [State.scanOrder, h]

/-- OLDEST_FIRST scans the busy stations by age, and then the idle ones in list order (R235, log entry 13). -/
theorem State.scanOrder_of_oldestFirst {s : State} (h : s.cfg.issuePolicy = .oldestFirst) :
    s.scanOrder = sortByAge s.stationAge ((List.range s.rs.length).filter s.stationBusy)
      ++ (List.range s.rs.length).filter fun k => !s.stationBusy k := by
  rw [State.scanOrder, h]

/-- Settles O30: the busy stations sorted and the idle ones are together the stations, each once. -/
theorem scanOrderFollowsPolicy : Obligations.ScanOrderFollowsPolicy := by
  refine fun s => ⟨State.scanOrder_of_stationOrder, fun hpolicy => ?_⟩
  have hsorted := sortByAge_perm s.stationAge ((List.range s.rs.length).filter s.stationBusy)
  rw [State.scanOrder_of_oldestFirst hpolicy]
  refine ⟨(hsorted.append_right _).trans (List.filter_append_perm s.stationBusy _), _, _, rfl,
    fun k hk => ?busy, fun k hk => ?idle, sortByAge_pairwise _ _⟩
  case busy => exact (List.mem_filter.mp (hsorted.mem_iff.mp hk)).2
  case idle => simpa using (List.mem_filter.mp hk).2

/-! ## Issue -/

/-- Issue makes its move where XQ has room, the present sources are ready and the instruction has not issued (R230 to
R232). -/
theorem issueStage_of_ready {s : State} {a b : Operand} {j : Nat} {r : InstrRecord} (hr : s.recs[j]? = some r)
    (hroom : s.xqFull = false) (hready : readyToExecute a b r = true) (hissued : r.issued = false) :
    issueStage a b j s = .next (s.issueMove j) := by
  simp only [issueStage, hr, hroom, hready, hissued]
  rfl

/-- The move of issue, field by field (R232, R306). -/
theorem State.issueMove_eq (s : State) (j : Nat) :
    s.issueMove j = { s with
      xq := s.xq ++ [j]
      recs := s.recs.modify j fun r => r.markIssued.stamped s.cycle .issue
      trace := s.trace ++ [⟨s.cycle, .issue, j⟩]
      progress := true
      active := none } := by
  rw [← s.issueMove_recs j]
  rfl

/-- The move of issue ends the selection of the instruction, so it is never a stall. -/
theorem State.issueMove_ne {s : State} {j : Nat} {x : Selection} (h : s.active = some x) : s.issueMove j ≠ s := by
  intro heq
  have hidle : s.active = none := congrArg State.active heq.symm
  exact Option.some_ne_none x (h.symm.trans hidle)

/-- Settles O19: the guard of issue is passed, and its move follows. -/
theorem issueAdvancesInstruction : Obligations.IssueAdvancesInstruction := by
  intro i s j r hactive hr hroom hissued h1 h2
  have hready : readyToExecute i.src1 i.src2 r = true := readyToExecute_eq_true.mpr ⟨h1, h2⟩
  rw [exec_issue i hactive, issueStage_of_ready hr (State.xqFull_eq_false.mpr hroom) hready hissued, State.issueMove_eq]
  rfl

/-- Settles O20: with a conjunct that fails issue stalls, and with all of them it makes its move. -/
theorem issueReadsOwnSnapshot : Obligations.IssueReadsOwnSnapshot := by
  intro i s j r hactive hr
  rw [exec_issue i hactive, ← State.xqFull_eq_false, ← readyToExecute_eq_true]
  constructor
  · intro hadvance
    by_contra hblocked
    refine hadvance (issueStage_of_blocked hr ?_)
    simp only [not_and_or, Bool.not_eq_true, Bool.not_eq_false] at hblocked
    tauto
  · rintro ⟨hroom, hissued, hready⟩ hstall
    rw [issueStage_of_ready hr hroom hready hissued, Host.Outcome.next.injEq] at hstall
    exact State.issueMove_ne hactive hstall

/-! ## Execute -/

/-- Execute makes its move where CQ has room and a station holds the instruction (R240 to R242). -/
theorem executeStage_of_room {s : State} {j k : Nat} {r : InstrRecord} {type : Kind} (hroom : s.cqFull = false)
    (hr : s.recs[j]? = some r) (hk : r.rsIdx = some k) (htype : s.stationType k = some type) :
    executeStage j s = .next (s.executeMove j k type) := by
  simp only [executeStage, hroom, hr, Option.bind_some, hk, htype]
  rfl

/-- The move of execute, field by field (R240 to R242, R306). -/
theorem State.executeMove_eq (s : State) (j k : Nat) (type : Kind) :
    s.executeMove j k type = { s with
      xq := s.xq.tail
      cq := s.cq ++ [j]
      rs := s.rs.set k { busy := false, inst := none }
      recs := s.recs.modify j fun r => (r.leftStation (s.cfg.lat type)).stamped s.cycle .execute
      trace := s.trace ++ [⟨s.cycle, .execute, j⟩]
      progress := true
      active := none } := by
  rw [← s.executeMove_recs j k type]
  rfl

/-- Settles O21: the guard of execute is passed, and its move takes the latency from the station's type. -/
theorem executeAdvancesInstruction : Obligations.ExecuteAdvancesInstruction := by
  intro i s j k r type hactive hroom hr hk htype
  rw [exec_execute i hactive, executeStage_of_room (State.cqFull_eq_false.mpr hroom) hr hk htype, State.executeMove_eq]
  rfl

end Sys2Proof.Machine
end

section
/-!
SUPPORT. The wakeup broadcast, and completion without one (R260 to R265).
-/
namespace Sys2Proof.Machine

/-! ## The broadcast -/

/-- The records a broadcast leaves (R262). -/
theorem State.getElem?_recs_broadcast (s : State) (t m : Nat) :
    (s.broadcast (some t)).recs[m]? = s.recs[m]?.map fun r => if m ∈ s.heldInstrs then r.wake t else r :=
  getElem?_wakeAll ..

/-- The broadcast of a tag wakes a source that is present and carries the tag, and no other (R262). -/
theorem InstrRecord.wake_rdy1_iff {r : InstrRecord} {t : Nat} :
    (r.wake t).rdy1 = true ↔ r.rdy1 = true ∨ (r.instr.src1 ≠ none ∧ r.ps1 = some t) := by
  simp [Option.isSome_iff_ne_none]

theorem InstrRecord.wake_rdy2_iff {r : InstrRecord} {t : Nat} :
    (r.wake t).rdy2 = true ↔ r.rdy2 = true ∨ (r.instr.src2 ≠ none ∧ r.ps2 = some t) := by
  simp [Option.isSome_iff_ne_none]

/-- Settles O31: a record is woken exactly if a busy station holds its instruction. -/
theorem broadcastWakesMatchingSources : Obligations.BroadcastWakesMatchingSources := by
  refine fun s => ⟨rfl, fun t => ⟨wakeAll_length .., rfl, fun j r hr => ?_⟩⟩
  refine ⟨if j ∈ s.heldInstrs then r.wake t else r, ?_, ?_⟩
  · rw [s.getElem?_recs_broadcast, hr, Option.map_some]
  · rw [← State.mem_heldInstrs]
    by_cases hheld : j ∈ s.heldInstrs
    · rw [if_pos hheld]
      refine ⟨rfl, ?_, ?_⟩
      · simp only [InstrRecord.wake_rdy1_iff, hheld, true_and]
      · simp only [InstrRecord.wake_rdy2_iff, hheld, true_and]
    · simp [hheld]

theorem InstrRecord.wake_comm (p q : Nat) (r : InstrRecord) : (r.wake p).wake q = (r.wake q).wake p := by
  unfold InstrRecord.wake
  simp only [Bool.or_right_comm]

/-- The broadcasts of two tags wake the instructions of the same stations, in either order (R265). -/
theorem State.broadcast_comm (s : State) (p q : Nat) :
    (s.broadcast (some p)).broadcast (some q) = (s.broadcast (some q)).broadcast (some p) := by
  refine congrArg (fun recs => { s with recs := recs }) (List.ext_getElem? fun m => ?_)
  show (wakeAll q s.heldInstrs (wakeAll p s.heldInstrs s.recs))[m]?
    = (wakeAll p s.heldInstrs (wakeAll q s.heldInstrs s.recs))[m]?
  simp only [getElem?_wakeAll, Option.map_map]
  congr 1
  funext r
  by_cases hheld : m ∈ s.heldInstrs
  · simp only [Function.comp_apply, if_pos hheld, r.wake_comm p q]
  · simp only [Function.comp_apply, if_neg hheld]

/-- Settles O32: the broadcast of NONE changes nothing, and those of two tags commute. -/
theorem broadcastOrderHasNoEffect : Obligations.BroadcastOrderHasNoEffect
  | _, none, _ => rfl
  | _, some _, none => rfl
  | s, some p, some q => s.broadcast_comm p q

/-- Settles O23: without a destination there is no broadcast before the move of complete. -/
theorem completeWithoutDestination : Obligations.CompleteWithoutDestination := by
  intro i s j r hactive hr hdue hpd
  have hv : (s.broadcast r.pd).markReady r.pd = .ok s := markReady_broadcast_eq_ok.mpr (.inl ⟨hpd, rfl⟩)
  rw [exec_complete i hactive, completeStage_of_due hr hdue hv, State.completeMove, State.advanced,
    State.updateRecord, List.modify_modify_eq]
  rfl

end Sys2Proof.Machine
end

section
/-!
SUPPORT. Completion on time: with `CAP_CQ <= W` every instruction in CQ is a candidate of `complete` in every cycle,
so that none stays in CQ past its deadline (R260, R261, R354).
-/
namespace Sys2Proof.Machine

/-! ## Deadlines -/

/-- The cycle in which a record that has executed is to complete: after its latency, and not in the cycle of its
execution (R261, R354). -/
def InstrRecord.deadline (r : InstrRecord) : Int := r.ts.execute + max 1 r.lat

/-- Completed at the deadline, if at all (R354). -/
def InstrRecord.Exact (r : InstrRecord) : Prop := r.completed = true → r.ts.complete = r.deadline

/-- What completion on time reads of a record. -/
def InstrRecord.timing (r : InstrRecord) : Bool × Int × Int × Int :=
  (r.completed, r.ts.complete, r.ts.execute, r.lat)

theorem InstrRecord.timing_eq_iff {r r' : InstrRecord} :
    r'.timing = r.timing ↔ r'.completed = r.completed ∧ r'.ts.complete = r.ts.complete
      ∧ r'.ts.execute = r.ts.execute ∧ r'.lat = r.lat := by
  simp only [InstrRecord.timing, Prod.mk.injEq]

theorem InstrRecord.deadline_congr {r r' : InstrRecord} (h : r'.timing = r.timing) : r'.deadline = r.deadline := by
  obtain ⟨-, -, hexecute, hlat⟩ := InstrRecord.timing_eq_iff.mp h
  rw [InstrRecord.deadline, hexecute, hlat, InstrRecord.deadline]

theorem InstrRecord.exact_congr {r r' : InstrRecord} (h : r'.timing = r.timing) : r'.Exact ↔ r.Exact := by
  obtain ⟨hcompleted, hcomplete, -, -⟩ := InstrRecord.timing_eq_iff.mp h
  rw [InstrRecord.Exact, hcompleted, hcomplete, InstrRecord.deadline_congr h, InstrRecord.Exact]

/-- A record that executed before cycle `c` is due in it exactly if its deadline is not later (R261). -/
theorem InstrRecord.due_iff_deadline_le {r : InstrRecord} {c : Int} (h : r.ts.execute < c) :
    r.ts.execute + r.lat ≤ c ↔ r.deadline ≤ c := by
  unfold InstrRecord.deadline
  omega

/-- Every completion was exact, and no deadline in CQ is before cycle `c`. `State.OnTime` says it of the horizon. -/
structure State.PunctualTo (c : Int) (s : State) : Prop where
  exact : ∀ j < s.progLen, (s.record j).Exact
  not_overdue : ∀ j ∈ s.cq, c ≤ (s.record j).deadline

theorem State.onTime_iff_punctualTo {s : State} : s.OnTime ↔ s.PunctualTo s.horizon :=
  ⟨fun h => ⟨h.exact, h.not_overdue⟩, fun h => ⟨h.exact, h.not_overdue⟩⟩

/-- A change that puts nothing into CQ and leaves what completion on time reads. -/
theorem State.PunctualTo.of_frame {s t : State} {c : Int} (h : s.PunctualTo c) (hlen : t.progLen = s.progLen)
    (hcq : t.cq ⊆ s.cq) (hview : ∀ m, (t.record m).timing = (s.record m).timing) : t.PunctualTo c := by
  refine ⟨fun j hj => ?_, fun j hj => ?_⟩
  · rw [InstrRecord.exact_congr (hview j)]
    exact h.exact j (hlen ▸ hj)
  · rw [InstrRecord.deadline_congr (hview j)]
    exact h.not_overdue j (hcq hj)

/-- A broadcast leaves what completion on time reads. -/
theorem timing_of_broadcast {s v : State} {o : Option Nat} (h : (s.broadcast o).markReady o = .ok v) (m : Nat) :
    (v.record m).timing = (s.record m).timing := by
  obtain ⟨-, rfl⟩ | ⟨p, -, -, rfl⟩ := markReady_broadcast_eq_ok.mp h
  · rfl
  · exact State.signalled_field InstrRecord.timing s p (fun _ => rfl) m

theorem cq_of_broadcast {s v : State} {o : Option Nat} (h : (s.broadcast o).markReady o = .ok v) : v.cq = s.cq := by
  obtain ⟨-, rfl⟩ | ⟨p, -, -, rfl⟩ := markReady_broadcast_eq_ok.mp h <;> rfl

/-! ## Up to the end of `complete` -/

/-- The running block until `complete` has gone through its candidates: what is in CQ executed in an earlier cycle,
all of it fits into one turn of `complete`, and none of it is overdue. -/
structure State.BeforeCompletions (s : State) : Prop where
  structured : s.Structured
  running : s.status = .running
  room : s.cfg.capCQ ≤ s.cfg.width
  executed_before : ∀ j ∈ s.cq, (s.record j).ts.execute < s.cycle
  punctual : s.PunctualTo s.cycle

theorem State.BeforeCompletions.deselect {s : State} (h : s.BeforeCompletions) : s.deselect.BeforeCompletions := by
  rwa [State.deselect_of_idle h.structured.shaped.idle]

theorem State.BeforeCompletions.of_frame {s t : State} (h : s.BeforeCompletions) (ht : t.Structured)
    (hfixed : s.Fixed t) (hcq : t.cq ⊆ s.cq) (hview : ∀ m, (t.record m).timing = (s.record m).timing) :
    t.BeforeCompletions where
  structured := ht
  running := hfixed.status.trans h.running
  room := by
    rw [hfixed.cfg]
    exact h.room
  executed_before j hj := by
    obtain ⟨-, -, hexecute, -⟩ := InstrRecord.timing_eq_iff.mp (hview j)
    rw [hexecute, hfixed.cycle]
    exact h.executed_before j (hcq hj)
  punctual := by
    rw [hfixed.cycle]
    exact h.punctual.of_frame hfixed.progLen hcq hview

theorem beforeCompletions_keptByRetire : KeptByRetire State.BeforeCompletions := by
  intro s e r v h hcount he hr hdone hv
  have hsame : v.recs = s.recs ∧ v.cq = s.cq := by
    obtain ⟨-, rfl⟩ | ⟨a, p, old, -, -, -, -, rfl⟩ := State.commit_eq_ok.mp hv <;> exact ⟨rfl, rfl⟩
  obtain ⟨hrecs, hcq⟩ := hsame
  refine h.of_frame (structured_keptByRetire s e r v h.structured hcount he hr hdone hv)
    ((State.Fixed.of_commit hv).trans (v.fixed_retireMove e.inst)) (List.Perm.of_eq hcq).subset fun m => ?_
  rw [State.record_field_of_modify InstrRecord.timing (v.retireMove_recs e.inst) (fun _ => rfl) m,
    State.record_congr hrecs]

/-- What is due and not overdue is exactly at its deadline, and completes on time. -/
theorem State.BeforeCompletions.completeMove {s : State} (h : s.BeforeCompletions) {j : Nat} (hmem : j ∈ s.cq)
    (hdue : (s.record j).ts.execute + (s.record j).lat ≤ s.cycle) : (s.completeMove j).BeforeCompletions := by
  have hmove := s.completeMove_recs j
  have hnodup := h.structured.placed.cq_nodup
  have hexact : (s.cycle : Int) = (s.record j).deadline :=
    le_antisymm (h.punctual.not_overdue j hmem)
      ((InstrRecord.due_iff_deadline_le (h.executed_before j hmem)).mp hdue)
  have hself : (s.completeMove j).record j = (s.record j).markCompleted.stamped s.cycle .complete :=
    State.record_self_of_modify hmove (h.structured.lt_recs_length (h.structured.placed.cq_lt j hmem))
  have hwaits : ∀ m ∈ (s.completeMove j).cq, m ≠ j ∧ m ∈ s.cq := fun m hm => hnodup.mem_erase_iff.mp hm
  refine ⟨h.structured.completeMove hmem, h.running, h.room, fun m hm => ?_, fun m hm => ?_, fun m hm => ?_⟩
  · obtain ⟨hmj, hm⟩ := hwaits m hm
    rw [State.record_other_of_modify hmove hmj]
    exact h.executed_before m hm
  · by_cases hmj : m = j
    · rw [hmj, hself]
      exact fun _ => hexact
    · rw [State.record_other_of_modify hmove hmj]
      exact h.punctual.exact m hm
  · obtain ⟨hmj, hm⟩ := hwaits m hm
    rw [State.record_other_of_modify hmove hmj]
    exact h.punctual.not_overdue m hm

theorem beforeCompletions_keptByComplete : KeptByComplete State.BeforeCompletions := by
  intro s j r v h hmem hr hdue hv
  have hcq := cq_of_broadcast hv
  have hfixed := State.Fixed.of_broadcast hv
  have hsignalled : v.Structured := by
    obtain ⟨-, rfl⟩ | ⟨p, -, -, rfl⟩ := markReady_broadcast_eq_ok.mp hv
    · exact h.structured
    · exact h.structured.signalled p
  have hbefore : v.BeforeCompletions :=
    h.of_frame hsignalled hfixed (List.Perm.of_eq hcq).subset (timing_of_broadcast hv)
  refine hbefore.completeMove (hcq ▸ hmem) ?_
  obtain ⟨-, -, hexecute, hlat⟩ := InstrRecord.timing_eq_iff.mp (timing_of_broadcast hv j)
  rw [hexecute, hlat, hfixed.cycle, State.record_eq_of_getElem? hr]
  exact hdue

/-! ## `complete` leaves nothing that is due -/

theorem KeptByAnyComplete.present {P : State → Prop} (h : KeptByAnyComplete P)
    (hdeselect : ∀ s, P s → P s.deselect) {s u : State} {j : Nat} (hs : P s)
    (hu : present .complete j s = .next u) : P u.deselect := by
  obtain rfl | ⟨r, v, hr, -, hv, rfl⟩ := present_complete_cases hu
  · exact hdeselect s hs
  · exact h s j r v hs hr hv

/-- Nothing enters CQ in `complete`. -/
theorem cq_sublist_keptByAnyComplete (cq : List Nat) : KeptByAnyComplete fun s => s.cq.Sublist cq :=
  fun _ _ _ _ hs _ hv => List.erase_sublist.trans (cq_of_broadcast hv ▸ hs)

/-- Instruction `j` is not due, if it is in CQ (R261). -/
def State.NotDue (j : Nat) (s : State) : Prop :=
  j ∈ s.cq → (s.cycle : Int) < (s.record j).ts.execute + (s.record j).lat

theorem notDue_keptByAnyComplete (j : Nat) : KeptByAnyComplete (State.NotDue j) := by
  intro s i r v hs hr hv hmem
  have hmove := State.record_field_of_modify (fun r => r.ts.execute + r.lat) (v.completeMove_recs i) (fun _ => rfl) j
  obtain ⟨-, -, hexecute, hlat⟩ := InstrRecord.timing_eq_iff.mp (timing_of_broadcast hv j)
  have hcycle : (v.completeMove i).cycle = s.cycle := (State.Fixed.of_broadcast hv).cycle
  rw [hmove, hexecute, hlat, hcycle]
  exact hs (cq_of_broadcast hv ▸ List.mem_of_mem_erase hmem)

/-- A candidate that is due leaves CQ (R260, R261). -/
theorem notDue_of_present {s u : State} {j : Nat} (hnodup : s.cq.Nodup) (h : present .complete j s = .next u) :
    u.deselect.NotDue j := by
  obtain ⟨r, -, hx⟩ := present_eq_next.mp h
  rw [exec_complete r.instr (j := j) rfl] at hx
  obtain ⟨r, hr, ⟨hearly, rfl⟩ | ⟨v, -, hv, rfl⟩⟩ := completeStage_next hx
  · intro _
    have hrecord : (s.select .complete j).deselect.record j = r := State.record_eq_of_getElem? hr
    rw [hrecord]
    exact hearly
  · intro hmem
    have hcq : v.cq = s.cq := (cq_of_broadcast hv :)
    exact absurd rfl ((hcq ▸ hnodup : v.cq.Nodup).mem_erase_iff.mp hmem).1

theorem notDue_of_completeScan {js : List Nat} {s t : State} (hnodup : s.cq.Nodup)
    (h : completeScan js s = .next t) : ∀ j ∈ js, t.NotDue j := by
  induction js generalizing s with
  | nil => simp
  | cons i js ih =>
    obtain ⟨u, hu, hrest⟩ := andThen_eq_next.mp h
    have hsub := (cq_sublist_keptByAnyComplete s.cq).present (fun _ hs => hs) (.refl _) hu
    refine List.forall_mem_cons.mpr ⟨?_, ih (hnodup.sublist hsub) hrest⟩
    exact completeScan_preserves (fun _ _ _ hs => (notDue_keptByAnyComplete i).present (fun _ hs => hs) hs) js _ t
      (notDue_of_present hnodup hu) hrest

/-! ## After `complete` -/

/-- The running block once `complete` is through: what is in CQ is for later cycles. -/
structure State.AfterCompletions (s : State) : Prop where
  structured : s.Structured
  running : s.status = .running
  punctual : s.PunctualTo (s.cycle + 1)

/-- Where all of CQ fits into one turn of `complete`, what is left has its deadline in a later cycle (R260). -/
theorem State.BeforeCompletions.completeScan {s t : State} (h : s.BeforeCompletions)
    (ht : completeScan s.candidates s = .next t) : t.AfterCompletions := by
  have hnodup := h.structured.placed.cq_nodup
  have hall : s.candidates = s.cq := List.take_of_length_le (h.structured.shaped.cq_length.trans h.room)
  rw [hall] at ht
  have hkept : t.BeforeCompletions := beforeCompletions_keptByComplete.completeScan
    (fun _ => State.BeforeCompletions.deselect) hnodup (fun _ hj => hj) h ht
  have hsub : t.cq.Sublist s.cq := completeScan_preserves
    (fun _ _ _ hs => (cq_sublist_keptByAnyComplete s.cq).present (fun _ hs => hs) hs) _ s t (.refl _) ht
  refine ⟨hkept.structured, hkept.running, hkept.punctual.exact, fun j hj => ?_⟩
  have hearly := notDue_of_completeScan hnodup ht j (hsub.subset hj) hj
  rw [← not_le, InstrRecord.due_iff_deadline_le (hkept.executed_before j hj), not_le] at hearly
  exact hearly

theorem State.AfterCompletions.of_frame {s t : State} (h : s.AfterCompletions) (ht : t.Structured)
    (hfixed : s.Fixed t) (hcq : t.cq = s.cq) (hview : ∀ m, (t.record m).timing = (s.record m).timing) :
    t.AfterCompletions := by
  refine ⟨ht, hfixed.status.trans h.running, ?_⟩
  rw [hfixed.cycle]
  exact h.punctual.of_frame hfixed.progLen (List.Perm.of_eq hcq).subset hview

/-- What executes now has its deadline in a later cycle (R242, R261). -/
theorem State.AfterCompletions.executeMove {s : State} (h : s.AfterCompletions) {j k : Nat} {type : Kind}
    (hmem : j ∈ s.xq) (ht : (s.executeMove j k type).Structured) : (s.executeMove j k type).AfterCompletions := by
  have hmove := s.executeMove_recs j k type
  have hj := h.structured.placed.xq_lt j hmem
  have hself : (s.executeMove j k type).record j
      = ((s.record j).leftStation (s.cfg.lat type)).stamped s.cycle .execute :=
    State.record_self_of_modify hmove (h.structured.lt_recs_length hj)
  have hlater : (s.cycle : Int) + 1 ≤ ((s.executeMove j k type).record j).deadline := by
    rw [hself]
    exact Int.add_le_add_left (le_max_left 1 _) _
  have hunfinished : (s.record j).completed ≠ true := by
    intro hdone
    have hexecuted := (h.structured.coherent hj).completed_executed hdone
    have hnot := ((h.structured.locates hj).xq_iff.mp hmem).2
    exact absurd (hexecuted.symm.trans hnot) (by decide)
  refine ⟨ht, h.running, fun m hm => ?_, fun m hm => ?_⟩
  · by_cases hmj : m = j
    · rw [hmj, hself]
      exact fun hdone => absurd hdone hunfinished
    · rw [State.record_other_of_modify hmove hmj]
      exact h.punctual.exact m hm
  · by_cases hmj : m = j
    · rw [hmj]
      exact hlater
    · rw [State.record_other_of_modify hmove hmj]
      obtain hm | hm := List.mem_append.mp hm
      · exact h.punctual.not_overdue m hm
      · exact absurd (List.mem_singleton.mp hm) hmj

theorem afterCompletions_keptAfterComplete : KeptAfterComplete State.AfterCompletions where
  deselect s h := by rwa [State.deselect_of_idle h.structured.shaped.idle]
  execute s j rest r k type h hxq hr hroom hk htype :=
    h.executeMove (by simp [hxq])
      (structured_keptAfterComplete.execute s j rest r k type h.structured hxq hr hroom hk htype)
  issue s k st j r h hst hheld hr hroom hready hissued :=
    h.of_frame (structured_keptAfterComplete.issue s k st j r h.structured hst hheld hr hroom hready hissued)
      (s.fixed_issueMove j) rfl
      (State.record_field_of_modify InstrRecord.timing (s.issueMove_recs j) fun _ => rfl)
  dispatch s j rest r k src1 src2 n h hdq hr hk h1 h2 hn := by
    have hcq : n.state.cq = s.cq := by
      obtain ⟨-, rfl⟩ | ⟨a, t, rest, old, -, -, -, -, rfl⟩ := State.renameDestination_eq_ok.mp hn <;> rfl
    refine h.of_frame
      (structured_keptAfterComplete.dispatch s j rest r k src1 src2 n h.structured hdq hr hk h1 h2 hn)
      ((State.Fixed.of_renameDestination hn).trans (n.state.fixed_dispatchMove ..)) hcq fun m => ?_
    rw [State.record_field_of_modify InstrRecord.timing (n.state.dispatchMove_recs ..) (fun _ => rfl) m,
      State.record_congr (renameDestination_frame hn).1]
  decode s j rest h hfq hroom :=
    h.of_frame (structured_keptAfterComplete.decode s j rest h.structured hfq hroom) (s.fixed_decodeMove j) rfl
      (State.record_field_of_modify InstrRecord.timing (s.decodeMove_recs j) fun _ => rfl)
  fetch s h hlt hroom :=
    h.of_frame (structured_keptAfterComplete.fetch s h.structured hlt hroom) s.fixed_fetchMove rfl
      (State.record_field_of_modify InstrRecord.timing s.fetchMove_recs fun _ => rfl)

/-! ## The whole step -/

theorem State.horizon_of_running {s : State} (h : s.status = .running) : s.horizon = s.cycle := if_pos h

/-- However a cycle ends, no timestamp has reached the number after its own (R48, R137). -/
theorem horizon_cycleEnd {s : State} (h : s.status = .running) : (cycleEnd s).horizon = s.cycle + 1 := by
  by_cases hall : s.nRetired = s.progLen
  · rw [cycleEnd_of_all_retired hall]
    rfl
  · by_cases hfires : s.watchdogFires = true
    · rw [cycleEnd_of_watchdog hall hfires]
      rfl
    · rw [cycleEnd_of_running hall hfires]
      exact State.horizon_of_running h

theorem State.AfterCompletions.onTime_cycleEnd {s : State} (h : s.AfterCompletions) : (cycleEnd s).OnTime := by
  rw [State.onTime_iff_punctualTo, horizon_cycleEnd h.running]
  exact h.punctual.of_frame (cycleEnd_progLen s) (List.Perm.of_eq (cycleEnd_cq s)).subset fun m =>
    congrArg _ (State.record_congr (cycleEnd_recs s) m)

/-- Between cycles what is in CQ executed before the next one (R353). -/
theorem State.Good.beforeCompletions_cycleStart {s : State} (h : s.Good) (hontime : s.OnTime)
    (hroom : s.cfg.capCQ ≤ s.cfg.width) (hrunning : s.status = .running) : (cycleStart s).BeforeCompletions := by
  have hhorizon := State.horizon_of_running hrunning
  refine ⟨h.structured.cycleStart, hrunning, hroom, fun j hj => ?_, hontime.exact, fun j hj => ?_⟩
  · obtain ⟨-, -, -, -, hexecute, -, -⟩ := h.timed.before_horizon j (h.structured.placed.cq_lt j hj)
    exact hhorizon ▸ hexecute
  · exact hhorizon ▸ hontime.not_overdue j hj

theorem cycleStep_keeps_onTime {s t : State} (hgood : s.Good) (hroom : s.cfg.capCQ ≤ s.cfg.width)
    (hontime : s.OnTime) (hrunning : s.status = .running) (h : cycleStep s = .next t) : t.OnTime := by
  obtain ⟨s1, s2, s3, s4, s5, s6, s7, h1, h2, h3, h4, h5, h6, h7, rfl⟩ := cycleStep_stages h
  have hbefore : s1.BeforeCompletions := beforeCompletions_keptByRetire.retireLoop
    (fun _ => State.BeforeCompletions.deselect)
    (hgood.beforeCompletions_cycleStart hontime hroom hrunning) h1
  exact (afterCompletions_keptAfterComplete.rest (hbefore.completeScan h2) h3 h4 h5 h6 h7).onTime_cycleEnd

/-- At reset nothing has executed (R330, R331). -/
theorem State.Structured.onTime_heldInReset {s : State} (h : s.Structured) : s.heldInReset.OnTime := by
  rw [State.heldInReset_eq h.shaped.loaded]
  refine ⟨fun j _ hdone => ?_, fun j hj => ?_⟩
  · obtain ⟨i, hi⟩ := State.record_ofReset_fresh s.cfg s.progLen s.prog (s.recs.map InstrRecord.instr) j
    have hfresh : ((State.ofReset s.cfg s.progLen s.prog (s.recs.map InstrRecord.instr)).record j).completed
        = false := by rw [hi]; rfl
    exact absurd (hdone.symm.trans hfresh) (by decide)
  · exact absurd hj List.not_mem_nil

/-- Settles O50: `complete` takes out of CQ all that is due, each exactly at its deadline, and what executes after it
in the cycle has a later deadline. -/
theorem stepKeepsCompletionOnTime : Obligations.StepKeepsCompletionOnTime := by
  intro s t hgood hroom hontime h
  obtain ⟨-, ⟨-, rfl⟩ | ⟨-, -, rfl⟩ | ⟨-, hrunning, hcycle⟩⟩ := step_eq_next.mp h
  · exact hgood.structured.onTime_heldInReset
  · exact hontime
  · exact cycleStep_keeps_onTime hgood hroom hontime hrunning hcycle

end Sys2Proof.Machine
end

section
/-!
SUPPORT. One advance at a time: every move of every stage writes one timestamp that was UNSET, of one instruction, and
leaves one event of it (R41, R160, R306). What all advances keep is kept by the cycle.
-/
namespace Sys2Proof.Machine

/-- `t` comes from `s` by an advance of instruction `j` in stage `st`: one timestamp is written, for the first time, and
a completion is not early (R41, R261, R306). -/
structure State.AdvancesTo (s : State) (st : Stage) (j : Nat) (t : State) : Prop where
  fixed : s.Fixed t
  was_unset : (s.record j).ts.get st = unset
  due : st = .complete → (s.record j).ts.execute + (s.record j).lat ≤ s.cycle
  ts_self : (t.record j).ts = (s.record j).ts.set s.cycle st
  ts_other : ∀ m ≠ j, (t.record m).ts = (s.record m).ts
  trace : t.trace = s.trace ++ [⟨s.cycle, st, j⟩]

namespace State.AdvancesTo

variable {s t : State} {st : Stage} {j : Nat}

/-- The timestamp that is written. -/
theorem get_self (h : s.AdvancesTo st j t) : (t.record j).ts.get st = s.cycle := by
  rw [h.ts_self, Timestamps.get_set_self]

/-- The timestamps that are left. -/
theorem get_other (h : s.AdvancesTo st j t) {m : Nat} {st' : Stage} (hne : m = j → st' ≠ st) :
    (t.record m).ts.get st' = (s.record m).ts.get st' := by
  by_cases hm : m = j
  · rw [hm, h.ts_self, Timestamps.get_set_of_ne _ _ _ _ (hne hm)]
  · rw [h.ts_other m hm]

end State.AdvancesTo

theorem State.Fixed.recs_length {s t : State} (h : s.Fixed t) : t.recs.length = s.recs.length := by
  simpa using congrArg List.length h.instrs

/-- A move is an advance where what comes before its change of the record of `j` (renaming, broadcast, commitment)
leaves the timestamps and the trace. -/
theorem State.Fixed.advancesTo {s v t : State} {j : Nat} {st : Stage} {f : InstrRecord → InstrRecord} (hv : s.Fixed v)
    (hts : ∀ m, (v.record m).ts = (s.record m).ts) (hquiet : v.trace = s.trace) (ht : v.Fixed t)
    (hrecs : t.recs = v.recs.modify j f) (hf : ∀ r, (f r).ts = r.ts.set v.cycle st)
    (htrace : t.trace = v.trace ++ [⟨v.cycle, st, j⟩]) (hj : j < s.recs.length)
    (hunset : (s.record j).ts.get st = unset)
    (hdue : st = .complete → (s.record j).ts.execute + (s.record j).lat ≤ s.cycle) : s.AdvancesTo st j t where
  fixed := hv.trans ht
  was_unset := hunset
  due := hdue
  ts_self := by rw [State.record_self_of_modify hrecs (hv.recs_length ▸ hj), hf, hts, hv.cycle]
  ts_other m hm := by rw [State.record_other_of_modify hrecs hm, hts]
  trace := by rw [htrace, hquiet, hv.cycle]

/-- Every advance from a structured state to a structured state keeps `P`. -/
def KeptByAdvance (P : State → Prop) : Prop :=
  ∀ s st j t, s.Structured → t.Structured → P s → s.AdvancesTo st j t → P t

section Principle

variable {P : State → Prop} (h : KeptByAdvance P)

include h

theorem KeptByAdvance.keptByRetire : KeptByRetire fun s => s.Structured ∧ P s := by
  rintro s e r v ⟨hs, hp⟩ hcount he hr hdone hv
  have ht := structured_keptByRetire s e r v hs hcount he hr hdone hv
  have hj := hs.lt_progLen_of_getElem? hr
  have hrecs : v.recs = s.recs := by
    obtain ⟨-, rfl⟩ | ⟨a, p, old, -, -, -, -, rfl⟩ := State.commit_eq_ok.mp hv <;> rfl
  obtain ⟨-, -, -, -, -, -, hretire⟩ := hs.unset_iff hj
  have hadvance : s.AdvancesTo .retire e.inst (v.retireMove e.inst) :=
    (State.Fixed.of_commit hv).advancesTo (fun m => congrArg _ (State.record_congr hrecs m)) (trace_of_commit hv).1
      (v.fixed_retireMove e.inst) (v.retireMove_recs e.inst) (fun _ => rfl) rfl (hs.lt_recs_length hj)
      (hretire.mpr (hs.head_inst hcount he).ge) nofun
  exact ⟨ht, h s _ _ _ hs ht hp hadvance⟩

theorem KeptByAdvance.keptByComplete : KeptByComplete fun s => s.Structured ∧ P s := by
  rintro s j r v ⟨hs, hp⟩ hmem hr hdue hv
  have ht := structured_keptByComplete s j r v hs hmem hr hdue hv
  have hj := hs.lt_progLen_of_getElem? hr
  have hts : ∀ m, (v.record m).ts = (s.record m).ts := by
    obtain ⟨-, rfl⟩ | ⟨p, -, -, rfl⟩ := markReady_broadcast_eq_ok.mp hv
    · exact fun _ => rfl
    · exact State.signalled_field InstrRecord.ts s p fun _ => rfl
  obtain ⟨-, -, -, -, -, hcomplete, -⟩ := hs.unset_iff hj
  have hadvance : s.AdvancesTo .complete j (v.completeMove j) :=
    (State.Fixed.of_broadcast hv).advancesTo hts (trace_of_broadcast hv).1 (v.fixed_completeMove j)
      (v.completeMove_recs j) (fun _ => rfl) rfl (hs.lt_recs_length hj)
      (hcomplete.mpr ((hs.locates hj).cq_iff.mp hmem).2) fun _ => by rwa [State.record_eq_of_getElem? hr]
  exact ⟨ht, h s _ _ _ hs ht hp hadvance⟩

theorem KeptByAdvance.keptAfterComplete : KeptAfterComplete fun s => s.Structured ∧ P s where
  deselect s hs := by rwa [State.deselect_of_idle hs.1.shaped.idle]
  execute s j rest r k type := by
    rintro ⟨hs, hp⟩ hxq hr hroom hk htype
    have ht := structured_keptAfterComplete.execute s j rest r k type hs hxq hr hroom hk htype
    have hj := hs.lt_progLen_of_getElem? hr
    have hwaits := ((hs.locates hj).xq_iff.mp (by simp [hxq])).2
    have hadvance : s.AdvancesTo .execute j (s.executeMove j k type) :=
      (State.Fixed.refl s).advancesTo (fun _ => rfl) rfl (s.fixed_executeMove j k type) (s.executeMove_recs j k type)
        (fun _ => rfl) rfl (hs.lt_recs_length hj) (not_not.mp (of_decide_eq_false hwaits)) nofun
    exact ⟨ht, h s _ _ _ hs ht hp hadvance⟩
  issue s k st j r := by
    rintro ⟨hs, hp⟩ hst hheld hr hroom hready hissued
    have ht := structured_keptAfterComplete.issue s k st j r hs hst hheld hr hroom hready hissued
    have hj := hs.lt_progLen_of_getElem? hr
    obtain ⟨-, -, -, hissue, -, -, -⟩ := hs.unset_iff hj
    have hadvance : s.AdvancesTo .issue j (s.issueMove j) :=
      (State.Fixed.refl s).advancesTo (fun _ => rfl) rfl (s.fixed_issueMove j) (s.issueMove_recs j) (fun _ => rfl) rfl
        (hs.lt_recs_length hj) (hissue.mpr (State.record_eq_of_getElem? hr ▸ hissued)) nofun
    exact ⟨ht, h s _ _ _ hs ht hp hadvance⟩
  dispatch s j rest r k src1 src2 n := by
    rintro ⟨hs, hp⟩ hdq hr hk h1 h2 hn
    have ht := structured_keptAfterComplete.dispatch s j rest r k src1 src2 n hs hdq hr hk h1 h2 hn
    have hj := hs.lt_progLen_of_getElem? hr
    have hrecs := (renameDestination_frame hn).1
    have hwaits : (s.record j).renamed = false := by
      rw [hs.placed.renamed_iff j hj, (hs.dq_head hdq).1]
      exact decide_eq_false (Nat.lt_irrefl _)
    obtain ⟨-, -, hdispatch, -, -, -, -⟩ := hs.unset_iff hj
    have hadvance : s.AdvancesTo .dispatch j (n.state.dispatchMove j k src1 src2 n.newTag n.oldTag) :=
      (State.Fixed.of_renameDestination hn).advancesTo (fun m => congrArg _ (State.record_congr hrecs m))
        (trace_of_renameDestination hn).1 (n.state.fixed_dispatchMove ..) (n.state.dispatchMove_recs ..) (fun _ => rfl)
        rfl (hs.lt_recs_length hj) (hdispatch.mpr hwaits) nofun
    exact ⟨ht, h s _ _ _ hs ht hp hadvance⟩
  decode s j rest := by
    rintro ⟨hs, hp⟩ hfq hroom
    have ht := structured_keptAfterComplete.decode s j rest hs hfq hroom
    have hmem : j ∈ s.fq := by simp [hfq]
    have hj := (hs.mem_fq.mp hmem).2.trans_le hs.placed.fetchPtr_le
    obtain ⟨-, hdecode, -, -, -, -, -⟩ := hs.unset_iff hj
    have hadvance : s.AdvancesTo .decode j (s.decodeMove j) :=
      (State.Fixed.refl s).advancesTo (fun _ => rfl) rfl (s.fixed_decodeMove j) (s.decodeMove_recs j) (fun _ => rfl) rfl
        (hs.lt_recs_length hj) (hdecode.mpr (.inr hmem)) nofun
    exact ⟨ht, h s _ _ _ hs ht hp hadvance⟩
  fetch s := by
    rintro ⟨hs, hp⟩ hlt hroom
    have ht := structured_keptAfterComplete.fetch s hs hlt hroom
    obtain ⟨hfetch, -, -, -, -, -, -⟩ := hs.unset_iff hlt
    have hadvance : s.AdvancesTo .fetch s.fetchPtr s.fetchMove :=
      (State.Fixed.refl s).advancesTo (fun _ => rfl) rfl s.fixed_fetchMove s.fetchMove_recs (fun _ => rfl) rfl
        (hs.lt_recs_length hlt) (hfetch.mpr le_rfl) nofun
    exact ⟨ht, h s _ _ _ hs ht hp hadvance⟩

/-- What the start of a cycle establishes and every advance keeps holds at the end of the cycle (R131). -/
theorem KeptByAdvance.cycle_keeps {s t : State} (hs : s.Structured) (hp : P (cycleStart s))
    (hcycle : cycleStep s = .next t) : ∃ u, P u ∧ t = cycleEnd u := by
  obtain ⟨u, ⟨-, hu⟩, rfl⟩ := cycle_keeps_of_nodup h.keptByRetire h.keptByComplete h.keptAfterComplete
    (fun _ hs => hs.1.placed.cq_nodup) ⟨hs.cycleStart, hp⟩ hcycle
  exact ⟨u, hu, rfl⟩

end Principle

end Sys2Proof.Machine
end

section
/-!
SUPPORT. The timestamps a cycle leaves: each one is old, or was UNSET and is now the cycle's number. No instruction has
two of the second sort (R134), and every old one is before the cycle, so the order of the timestamps is kept (R285,
R340, R353, R354).
-/
namespace Sys2Proof.Machine

/-! ## The timestamps by stage -/

theorem Timestamps.before_iff {t : Timestamps} {c : Int} : t.before c ↔ ∀ st, t.get st < c := by
  constructor
  · rintro ⟨hfetch, hdecode, hdispatch, hissue, hexecute, hcomplete, hretire⟩ st
    cases st <;> assumption
  · exact fun h => ⟨h .fetch, h .decode, h .dispatch, h .issue, h .execute, h .complete, h .retire⟩

theorem Timestamps.monotone_iff {t : Timestamps} :
    t.monotone ↔ ∀ st, st ≠ .retire → follows (t.get st) (t.get st.later) := by
  constructor
  · rintro ⟨hdecode, hdispatch, hissue, hexecute, hcomplete, hretire⟩ st hst
    cases st with
    | retire => exact absurd rfl hst
    | _ => assumption
  · exact fun h => ⟨h .fetch nofun, h .decode nofun, h .dispatch nofun, h .issue nofun, h .execute nofun,
      h .complete nofun⟩

theorem Stage.later_ne {st : Stage} (h : st ≠ .retire) : st.later ≠ st := by
  cases st with
  | retire => exact absurd rfl h
  | _ => exact nofun

/-! ## What a cycle does to the timestamps -/

/-- The latency of instruction `j`, which no step changes (R242). -/
def State.latency (s : State) (j : Nat) : Int := s.cfg.lat (s.record j).instr.kind

theorem State.Structured.lat_eq_latency {s : State} (h : s.Structured) {j : Nat} (hj : j < s.progLen)
    (hset : (s.record j).ts.get .execute ≠ unset) : (s.record j).lat = s.latency j :=
  (h.coherent hj).lat_eq (decide_eq_true hset)

theorem State.Structured.retire_set_iff {s : State} (h : s.Structured) {j : Nat} (hj : j < s.progLen) :
    (s.record j).ts.get .retire ≠ unset ↔ j < s.nRetired :=
  (h.coherent hj).retire_set.trans (h.locates hj).retired_iff

/-- The producers of an issued instruction have completed (R231, R267). -/
theorem State.Renamed.producerDone_of_issued {s : State} (hr : s.Renamed) (h : s.Structured) {j a : Nat}
    (hj : j < s.progLen) (hissued : (s.record j).issued = true)
    (ha : a ∈ (s.record j).instr.src1 ∨ a ∈ (s.record j).instr.src2) : s.producerDone a j = true := by
  have hdispatched := (h.locates hj).renamed_iff.mp ((h.coherent hj).issued_renamed hissued)
  obtain ⟨hsource1, hsource2⟩ := hr.sources hdispatched
  obtain ⟨hready1, hready2⟩ := readyToExecute_eq_true.mp (hr.issued_ready j hj hissued)
  obtain ha | ha := ha
  · rw [← hsource1.ready a ha]
    exact hready1.resolve_left (Option.ne_none_iff_exists'.mpr ⟨a, ha⟩)
  · rw [← hsource2.ready a ha]
    exact hready2.resolve_left (Option.ne_none_iff_exists'.mpr ⟨a, ha⟩)

/-- In the cycle from `s` to `t` instruction `j` advanced in stage `st`, for the first time (R41, R306). -/
structure State.Stamped (s t : State) (st : Stage) (j : Nat) : Prop where
  was_unset : (s.record j).ts.get st = unset
  now : (t.record j).ts.get st = s.cycle
  traced : ⟨s.cycle, st, j⟩ ∈ t.trace

/-- In the cycle from `s` to `t` no timestamp was written over, and no completion was early (R41, R261). -/
structure State.StampedFrom (s t : State) : Prop where
  stamp : ∀ j < s.progLen, ∀ st, (t.record j).ts.get st = (s.record j).ts.get st ∨ s.Stamped t st j
  not_early : ∀ j < s.progLen, (t.record j).ts.get .complete ≠ unset →
    (t.record j).ts.get .execute + s.latency j ≤ (t.record j).ts.get .complete

/-- Before the first stage every timestamp is old, and no completion was early. -/
theorem State.Timed.stampedFrom_cycleStart {s : State} (h : s.Timed) (hs : s.Structured) :
    s.StampedFrom (cycleStart s) where
  stamp _ _ _ := .inl rfl
  not_early j hj hset := by
    have hcompleted := (hs.coherent hj).complete_set.mp hset
    have hlatency := h.latency j hj hcompleted
    rw [(hs.coherent hj).lat_eq ((hs.coherent hj).completed_executed hcompleted)] at hlatency
    exact (Int.add_le_add_left (le_max_right 1 _) _).trans hlatency

/-- An advance writes over no timestamp, and completes only what is due. -/
theorem State.StampedFrom.advance {s u v : State} {st : Stage} {j : Nat} (h : s.StampedFrom u) (hu : u.Structured)
    (hv : v.Structured) (hfixed : s.Fixed u) (ha : u.AdvancesTo st j v) : s.StampedFrom v where
  stamp m hm st' := by
    by_cases hself : m = j ∧ st' = st
    · obtain ⟨rfl, rfl⟩ := hself
      obtain hold | hnew := h.stamp m hm st'
      · exact .inr ⟨hold ▸ ha.was_unset, by rw [ha.get_self, hfixed.cycle], by simp [ha.trace, hfixed.cycle]⟩
      · exact absurd (hnew.now.symm.trans ha.was_unset) (natCast_ne_unset _)
    · rw [ha.get_other fun hmj hst => hself ⟨hmj, hst⟩]
      refine (h.stamp m hm st').imp_right fun hnew => ⟨hnew.was_unset, ?_, ?_⟩
      · rw [ha.get_other fun hmj hst => hself ⟨hmj, hst⟩, hnew.now]
      · rw [ha.trace]
        exact List.mem_append_left _ hnew.traced
  not_early m hm hset := by
    have hmu : m < u.progLen := hfixed.progLen ▸ hm
    by_cases hcompletes : m = j ∧ st = .complete
    · obtain ⟨rfl, rfl⟩ := hcompletes
      have hexecute := ha.get_other (m := m) (st' := .execute) fun _ => nofun
      have hexecuted : (u.record m).ts.get .execute ≠ unset := fun hunset =>
        hset (hv.unset_later (ha.fixed.progLen ▸ hmu) (hexecute.trans hunset))
      have hlat : (u.record m).lat = s.latency m := by
        rw [hu.lat_eq_latency hmu hexecuted, State.latency, hfixed.cfg, hfixed.record_instr, State.latency]
      rw [hexecute, ha.get_self, ← hlat]
      exact ha.due rfl
    · have hcomplete := ha.get_other (m := m) (st' := .complete) fun hmj hst => hcompletes ⟨hmj, hst.symm⟩
      rw [hcomplete] at hset
      have hexecute := ha.get_other (m := m) (st' := .execute) (by
        rintro rfl rfl
        exact hset (hu.unset_later hmu ha.was_unset))
      rw [hexecute, hcomplete]
      exact h.not_early m hm hset

theorem stampedFrom_keptByAdvance (s : State) : KeptByAdvance fun u => s.Fixed u ∧ s.StampedFrom u :=
  fun _ _ _ _ hu hv ⟨hfixed, h⟩ ha => ⟨hfixed.trans ha.fixed, h.advance hu hv hfixed ha⟩

/-! ## What is left at the end of the cycle -/

/-- What the order of the timestamps at the end of a cycle rests on: the timestamps of the cycle, at most one of each
instruction (R134), in a state that is structured and renamed. -/
structure State.CycledTo (s t : State) : Prop where
  good : s.Good
  running : s.status = .running
  structured : t.Structured
  renamed : t.Renamed
  stampedFrom : s.StampedFrom t
  one_advance : (t.trace.map TraceEvent.index).Nodup
  cfg : t.cfg = s.cfg
  progLen : t.progLen = s.progLen
  instr : ∀ j, (t.record j).instr = (s.record j).instr
  horizon : t.horizon = s.cycle + 1

theorem State.StampedFrom.cycleEnd {s u : State} (h : s.StampedFrom u) : s.StampedFrom (cycleEnd u) := by
  have hrecord := State.record_congr (cycleEnd_recs u)
  refine ⟨fun j hj st => ?_, fun j hj => ?_⟩
  · rw [hrecord]
    refine (h.stamp j hj st).imp_right fun hnew => ⟨hnew.was_unset, ?_, ?_⟩
    · rw [hrecord, hnew.now]
    · rw [cycleEnd_trace]
      exact hnew.traced
  · rw [hrecord]
    exact h.not_early j hj

theorem State.Good.cycledTo {s t : State} (hs : s.Good) (hcycle : s.performsCycle) (h : step s = .next t) :
    s.CycledTo t := by
  have ⟨_, _, hrunning⟩ := hcycle
  have hstamped := hs.timed.stampedFrom_cycleStart hs.structured
  obtain ⟨u, ⟨hfixed, hu⟩, htu⟩ := (stampedFrom_keptByAdvance s).cycle_keeps hs.structured
    ⟨⟨rfl, rfl, rfl, rfl, rfl, rfl, rfl, rfl⟩, hstamped⟩ ((step_of_performsCycle hcycle).mp h)
  have hrecord : ∀ j, t.record j = u.record j := by
    rw [htu]
    exact State.record_congr (cycleEnd_recs u)
  exact {
    good := hs
    running := hrunning
    structured := stepKeepsStructure s t hs.structured h
    renamed := stepKeepsRenaming s t hs.structured hs.conserved hs.renamed h
    stampedFrom := htu ▸ hu.cycleEnd
    one_advance := oneAdvancePerInstructionPerCycle s t hs.structured hs.timed hcycle h
    cfg := by rw [htu, cycleEnd_cfg, hfixed.cfg]
    progLen := by rw [htu, cycleEnd_progLen, hfixed.progLen]
    instr := fun j => by rw [hrecord, hfixed.record_instr]
    horizon := by rw [htu, horizon_cycleEnd (hfixed.status.trans hrunning), hfixed.cycle] }

namespace State.CycledTo

variable {s t : State} (h : s.CycledTo t) {j : Nat}

include h

/-- The timestamps of `s` are before the cycle (R353). -/
theorem get_lt_cycle (hj : j < s.progLen) (st : Stage) : (s.record j).ts.get st < s.cycle := by
  have hbefore := Timestamps.before_iff.mp (h.good.timed.before_horizon j hj) st
  rwa [State.horizon_of_running h.running] at hbefore

/-- A timestamp that was set stays as it is (R41). -/
theorem get_of_set (hj : j < s.progLen) {st : Stage} (hset : (s.record j).ts.get st ≠ unset) :
    (t.record j).ts.get st = (s.record j).ts.get st :=
  (h.stampedFrom.stamp j hj st).resolve_right fun hnew => hset hnew.was_unset

theorem get_le_cycle (hj : j < s.progLen) (st : Stage) : (t.record j).ts.get st ≤ s.cycle := by
  obtain hold | hnew := h.stampedFrom.stamp j hj st
  · rw [hold]
    exact (h.get_lt_cycle hj st).le
  · exact hnew.now.le

/-- An instruction that advances in a cycle has its other timestamps from before (R134). -/
theorem get_lt_cycle_of_stamped (hj : j < s.progLen) {st st' : Stage} (hst : s.Stamped t st j) (hne : st ≠ st') :
    (t.record j).ts.get st' < s.cycle := by
  obtain hold | hnew := h.stampedFrom.stamp j hj st'
  · rw [hold]
    exact h.get_lt_cycle hj st'
  · have hsame := List.inj_on_of_nodup_map h.one_advance hst.traced hnew.traced rfl
    exact absurd (congrArg TraceEvent.stage hsame) hne

/-- Stage monotonicity (R353). -/
theorem monotone (hj : j < s.progLen) : (t.record j).ts.monotone := by
  refine Timestamps.monotone_iff.mpr fun st hst hlater => ?_
  have hset : (t.record j).ts.get st ≠ unset := fun hunset =>
    hlater (h.structured.unset_later (h.progLen ▸ hj) hunset)
  refine ⟨hset, ?_⟩
  obtain hold | hnew := h.stampedFrom.stamp j hj st.later
  · have hfollows := Timestamps.monotone_iff.mp (h.good.timed.monotone j hj) st hst
    rw [hold] at hlater ⊢
    obtain ⟨hearlier, hlt⟩ := hfollows hlater
    rwa [h.get_of_set hj hearlier]
  · rw [hnew.now]
    exact h.get_lt_cycle_of_stamped hj hnew (Stage.later_ne hst)

theorem lt_progLen_of_retired (hj : j < t.nRetired) : j < s.progLen :=
  h.progLen ▸ h.structured.lt_progLen_of_dispatched (hj.trans_le (Nat.le_add_right _ _))

/-- Retirement in program order (R285): the older instructions retired before the cycle or in it. -/
theorem retire_order (hj : j < t.nRetired) {i : Nat} (hij : i < j) :
    (t.record i).ts.retire ≤ (t.record j).ts.retire := by
  have hjs := h.lt_progLen_of_retired hj
  have his := hij.trans hjs
  show (t.record i).ts.get .retire ≤ (t.record j).ts.get .retire
  obtain hold | hnew := h.stampedFrom.stamp j hjs .retire
  · have hset := (h.structured.retire_set_iff (h.progLen ▸ hjs)).mpr hj
    rw [hold] at hset ⊢
    have hretired := (h.good.structured.retire_set_iff hjs).mp hset
    rw [h.get_of_set his ((h.good.structured.retire_set_iff his).mpr (hij.trans hretired))]
    exact h.good.timed.retire_order j hretired i hij
  · rw [hnew.now]
    exact h.get_le_cycle his .retire

/-- No completion is early (R242, R261), nor in the cycle of the execution (R354). -/
theorem latency (hj : j < s.progLen) (hcompleted : (t.record j).completed = true) :
    (t.record j).ts.execute + max 1 (t.record j).lat ≤ (t.record j).ts.complete := by
  have hset := (h.structured.coherent (h.progLen ▸ hj)).complete_set.mpr hcompleted
  obtain ⟨-, -, -, -, hfollows, -⟩ := h.monotone hj
  obtain ⟨hexecuted, hlt⟩ := hfollows hset
  have hearly := h.stampedFrom.not_early j hj hset
  have hlat : (t.record j).lat = s.latency j := by
    rw [h.structured.lat_eq_latency (h.progLen ▸ hj) hexecuted, State.latency, h.cfg, h.instr, State.latency]
  change (t.record j).ts.execute + s.latency j ≤ (t.record j).ts.complete at hearly
  omega

/-- An issue in this cycle finds its producers completed, and an earlier one found them completed then (R340). -/
theorem issuedAfter (hj : j < s.progLen) (hissued : (t.record j).issued = true) {a : Nat}
    (ha : a ∈ (t.record j).instr.src1 ∨ a ∈ (t.record j).instr.src2) : t.issuedAfter a j := by
  intro i hi
  have his := (State.lastWriter_spec hi).1.trans hj
  have hjt : j < t.progLen := h.progLen ▸ hj
  have hset : (t.record j).ts.get .issue ≠ unset := (h.structured.coherent hjt).issue_set.mpr hissued
  show (t.record i).ts.get .complete ≠ unset ∧ (t.record i).ts.get .complete ≤ (t.record j).ts.get .issue
  obtain hold | hnew := h.stampedFrom.stamp j hj .issue
  · rw [hold] at hset ⊢
    rw [State.lastWriter_congr h.instr] at hi
    rw [h.instr] at ha
    have hbefore := (h.good.structured.coherent hj).issue_set.mp hset
    have hproduced : s.issuedAfter a j :=
      ha.elim (h.good.timed.raw1 j hj hbefore a) (h.good.timed.raw2 j hj hbefore a)
    have hdone := hproduced i hi
    rwa [h.get_of_set (st := .complete) his hdone.1]
  · have hproduced := h.renamed.producerDone_of_issued h.structured hjt hissued ha
    rw [State.producerDone_of_writer hi] at hproduced
    rw [hnew.now]
    exact ⟨(h.structured.coherent (h.progLen ▸ his)).complete_set.mpr hproduced, h.get_le_cycle his .complete⟩

theorem timed : t.Timed where
  monotone _ hj := h.monotone (h.progLen ▸ hj)
  before_horizon j hj := by
    rw [h.horizon, Timestamps.before_iff]
    exact fun st => Int.lt_add_one_of_le (h.get_le_cycle (h.progLen ▸ hj) st)
  retire_order _ hj _ hij := h.retire_order hj hij
  latency _ hj := h.latency (h.progLen ▸ hj)
  raw1 _ hj hissued _ ha := h.issuedAfter (h.progLen ▸ hj) hissued (.inl ha)
  raw2 _ hj hissued _ ha := h.issuedAfter (h.progLen ▸ hj) hissued (.inr ha)

end State.CycledTo

/-! ## The whole step -/

theorem State.horizon_nonneg (s : State) : 0 ≤ s.horizon := by
  unfold State.horizon
  split <;> omega

/-- Where every record is as load made it, no timestamp is set. -/
theorem State.timed_of_fresh {s : State} (hfresh : ∀ j, ∃ i, s.record j = InstrRecord.fresh i)
    (hretired : s.nRetired = 0) : s.Timed := by
  have hrecord : ∀ j, (s.record j).ts = {} ∧ (s.record j).issued = false ∧ (s.record j).completed = false := by
    intro j
    obtain ⟨i, hi⟩ := hfresh j
    rw [hi]
    exact ⟨rfl, rfl, rfl⟩
  have hunissued : ∀ j, (s.record j).issued ≠ true := fun j => by simp [hrecord]
  refine ⟨fun j _ => ?_, fun j _ => ?_, fun j hj => ?_, fun j _ hcompleted => ?_,
    fun j _ hissued => absurd hissued (hunissued j), fun j _ hissued => absurd hissued (hunissued j)⟩
  · rw [(hrecord j).1]
    simp [Timestamps.monotone]
  · have hunset : unset < s.horizon := Int.lt_of_lt_of_le (by decide) s.horizon_nonneg
    rw [(hrecord j).1]
    exact ⟨hunset, hunset, hunset, hunset, hunset, hunset, hunset⟩
  · rw [hretired] at hj
    exact absurd hj (Nat.not_lt_zero j)
  · rw [(hrecord j).2.2] at hcompleted
    cases hcompleted

/-- At reset every record is as load made it (R330, R331). -/
theorem State.Structured.timed_heldInReset {s : State} (h : s.Structured) : s.heldInReset.Timed := by
  rw [State.heldInReset_eq h.shaped.loaded]
  exact State.timed_of_fresh (State.record_ofReset_fresh s.cfg s.progLen s.prog _) rfl

/-- Settles O49: a cycle writes no timestamp twice, gives an instruction at most one, and finds at an issue every
producer completed and at a completion the latency passed. -/
theorem stepKeepsTimestampOrder : Obligations.StepKeepsTimestampOrder := by
  intro s t hs h
  obtain ⟨hadmitted, ⟨-, rfl⟩ | ⟨-, -, rfl⟩ | ⟨hrst, hrunning, -⟩⟩ := step_eq_next.mp h
  · exact hs.structured.timed_heldInReset
  · exact hs.timed
  · exact (hs.cycledTo ⟨hadmitted, hrst, hrunning⟩ h).timed

end Sys2Proof.Machine
end

section
/-!
SUPPORT. No stage raises an exception (R300): the procedures and the step answer a next state wherever each
instruction they select has a meaning that answers one, and in a state where the instructions, the registers and the
tags are where program order puts them every meaning does.
-/
namespace Sys2Proof.Machine

/-! ## Results that are next states -/

/-- The result is a next state, and `P` holds of it. -/
def Answers (P : State → Prop) (o : Result) : Prop := ∃ t, o = .next t ∧ P t

theorem Answers.next {P : State → Prop} {t : State} (h : P t) : Answers P (.next t) := ⟨t, rfl, h⟩

theorem Answers.andThen {P Q : State → Prop} {o : Result} {k : State → Result} (ho : Answers P o)
    (hk : ∀ u, P u → Answers Q (k u)) : Answers Q (andThen o k) := by
  obtain ⟨u, rfl, hu⟩ := ho
  exact hk u hu

/-- The state that a stage goes on with after a meaning, its selection ended, satisfies `P`. -/
abbrev AnswersDeselected (P : State → Prop) (o : Result) : Prop := Answers (fun u => P u.deselect) o

theorem AnswersDeselected.orStall {P : State → Prop} {o : Result} {k : State → Result} (ho : AnswersDeselected P o)
    (hk : ∀ u, P u → Answers P (k u)) : Answers P (orStall o k) := by
  obtain ⟨u, hu, hPu⟩ := ho
  cases hidle : u.active with
  | none =>
    rw [State.deselect_of_idle hidle] at hPu
    obtain ⟨t, ht, hPt⟩ := hk u hPu
    exact ⟨t, orStall_eq_next.mpr ⟨u, hu, .inl ⟨hidle, ht⟩⟩, hPt⟩
  | some x => exact ⟨u.deselect, orStall_eq_next.mpr ⟨u, hu, .inr ⟨by simp [hidle], rfl⟩⟩, hPu⟩

/-! ## The stage procedures answer where the meanings do -/

section Procedures

variable {P : State → Prop}

/-- A procedure of turns answers where each of its turns ends it or hands over a meaning that answers. -/
theorem loop_answers {f : Nat → State → Result} (hzero : ∀ s, f 0 s = .next s)
    (hturn : ∀ n s, P s → f (n + 1) s = .next s ∨ ∃ o, f (n + 1) s = orStall o (f n) ∧ AnswersDeselected P o) :
    ∀ (n : Nat) (s : State), P s → Answers P (f n s) := by
  intro n
  induction n with
  | zero => exact fun s hs => ⟨s, hzero s, hs⟩
  | succ n ih =>
    intro s hs
    obtain hend | ⟨o, ho, hanswers⟩ := hturn n s hs
    · exact ⟨s, hend, hs⟩
    · rw [ho]
      exact hanswers.orStall ih

theorem retireLoop_answers (hmeaning : ∀ s, P s → s.robCount ≠ 0 →
      ∃ e, s.rob[s.robHead]? = some e ∧ AnswersDeselected P (present .retire e.inst s)) :
    ∀ (n : Nat) (s : State), P s → Answers P (retireLoop n s) := by
  refine loop_answers (fun _ => rfl) fun n s hs => ?_
  by_cases hcount : s.robCount = 0
  · exact .inl (retireLoop_of_empty hcount)
  · obtain ⟨e, he, hanswers⟩ := hmeaning s hs hcount
    exact .inr ⟨_, retireLoop_succ hcount he, hanswers⟩

/-- The candidates of `complete` are in CQ when they are presented, each once. -/
theorem completeScan_answers (hmeaning : ∀ s j, P s → j ∈ s.cq → AnswersDeselected P (present .complete j s)) :
    ∀ (js : List Nat) (s : State), js.Nodup → (∀ j ∈ js, j ∈ s.cq) → P s → Answers P (completeScan js s) := by
  intro js
  induction js with
  | nil => exact fun s _ _ hs => .next hs
  | cons j js ih =>
    intro s hnodup hmem hs
    obtain ⟨hj, hnodup⟩ := List.nodup_cons.mp hnodup
    obtain ⟨hjcq, hjscq⟩ := List.forall_mem_cons.mp hmem
    obtain ⟨u, hu, hPu⟩ := hmeaning s j hs hjcq
    rw [completeScan, hu, andThen_next]
    exact ih u.deselect hnodup
      (fun m hm => mem_cq_of_present_complete hu (fun hmj => hj (hmj ▸ hm)) (hjscq m hm)) hPu

theorem executeLoop_answers
    (hmeaning : ∀ s j rest, P s → s.xq = j :: rest → AnswersDeselected P (present .execute j s)) :
    ∀ (n : Nat) (s : State), P s → Answers P (executeLoop n s) := by
  refine loop_answers (fun _ => rfl) fun n s hs => ?_
  cases hxq : s.xq with
  | nil => exact .inl (executeLoop_of_empty hxq)
  | cons j rest => exact .inr ⟨_, executeLoop_succ hxq, hmeaning s j rest hs hxq⟩

theorem issueScan_answers (hmeaning : ∀ s (k : Nat) (st : Station) (j : Nat), P s → s.rs[k]? = some st →
      st.held = some j → AnswersDeselected P (present .issue j s)) :
    ∀ (ks : List Nat) (n : Nat) (s : State), P s → Answers P (issueScan ks n s) := by
  intro ks
  induction ks with
  | nil => exact fun n s hs => .next hs
  | cons k ks ih =>
    intro n s hs
    by_cases hroom : (n = 0 || s.xqFull) = true
    · rw [issueScan_of_no_room hroom]
      exact .next hs
    · cases hheld : s.rs[k]?.bind Station.held with
      | none =>
        rw [issueScan_of_idle_station hroom hheld]
        exact ih n s hs
      | some j =>
        obtain ⟨st, hst, hj⟩ := Option.bind_eq_some_iff.mp hheld
        rw [issueScan_of_held hroom hheld]
        refine (hmeaning s k st j hs hst hj).andThen fun u hu => ?_
        cases hidle : u.active with
        | none =>
          rw [State.deselect_of_idle hidle] at hu
          exact ih (n - 1) u hu
        | some x => exact ih n u.deselect hu

theorem dispatchLoop_answers
    (hmeaning : ∀ s j rest, P s → s.dq = j :: rest → AnswersDeselected P (present .dispatch j s)) :
    ∀ (n : Nat) (s : State), P s → Answers P (dispatchLoop n s) := by
  refine loop_answers (fun _ => rfl) fun n s hs => ?_
  cases hdq : s.dq with
  | nil => exact .inl (dispatchLoop_of_empty hdq)
  | cons j rest => exact .inr ⟨_, dispatchLoop_succ hdq, hmeaning s j rest hs hdq⟩

theorem decodeLoop_answers
    (hmeaning : ∀ s j rest, P s → s.fq = j :: rest → AnswersDeselected P (present .decode j s)) :
    ∀ (n : Nat) (s : State), P s → Answers P (decodeLoop n s) := by
  refine loop_answers (fun _ => rfl) fun n s hs => ?_
  cases hfq : s.fq with
  | nil => exact .inl (decodeLoop_of_empty hfq)
  | cons j rest => exact .inr ⟨_, decodeLoop_succ hfq, hmeaning s j rest hs hfq⟩

theorem fetchLoop_answers
    (hmeaning : ∀ s, P s → s.fetchPtr < s.progLen → AnswersDeselected P (presentFetched s)) :
    ∀ (n : Nat) (s : State), P s → Answers P (fetchLoop n s) := by
  refine loop_answers (fun _ => rfl) fun n s hs => ?_
  by_cases hlt : s.fetchPtr < s.progLen
  · exact .inr ⟨_, fetchLoop_succ hlt, hmeaning s hs hlt⟩
  · exact .inl (fetchLoop_of_end hlt)

end Procedures

/-! ## What the stages look up exists -/

theorem State.Structured.getElem?_record {s : State} (h : s.Structured) {j : Nat} (hj : j < s.progLen) :
    s.recs[j]? = some (s.record j) :=
  State.getElem?_recs (h.lt_recs_length hj)

/-- An occupied ROB has an entry at its head (R43). -/
theorem State.Structured.exists_head {s : State} (h : s.Structured) : ∃ e, s.rob[s.robHead]? = some e :=
  ⟨_, List.getElem?_eq_getElem (h.shaped.rob_length ▸ h.shaped.robHead_lt)⟩

/-- An instruction in CQ is in flight. -/
theorem State.Structured.inFlight_of_mem_cq {s : State} (h : s.Structured) {j : Nat} (hj : j ∈ s.cq) :
    s.InFlight j := by
  have hlt := h.placed.cq_lt j hj
  obtain ⟨hexecuted, hnot⟩ := (h.locates hlt).cq_iff.mp hj
  have hrenamed := (h.coherent hlt).issued_renamed ((h.coherent hlt).executed_issued hexecuted)
  exact h.inFlight_of_not_completed ((h.locates hlt).renamed_iff.mp hrenamed) hnot

/-- An instruction in XQ is held by a station of the block (R40, R44). -/
theorem State.Structured.station_of_mem_xq {s : State} (h : s.Structured) {j : Nat} (hj : j ∈ s.xq) :
    ∃ k type, (s.record j).rsIdx = some k ∧ s.stationType k = some type := by
  have hlt := h.placed.xq_lt j hj
  obtain ⟨hissued, hexecuted⟩ := (h.locates hlt).xq_iff.mp hj
  have hback := (h.coherent hlt).rsIdx_iff
  rw [(h.coherent hlt).issued_renamed hissued, hexecuted] at hback
  obtain ⟨k, hk⟩ := Option.isSome_iff_exists.mp hback
  have hinst := h.placed.holds j hlt k hk
  obtain ⟨st, hst, -⟩ := Option.bind_eq_some_iff.mp hinst
  obtain ⟨hrs, -⟩ := List.getElem?_eq_some_iff.mp hst
  obtain ⟨-, -, -, htype⟩ := h.placed.held k hrs j hinst
  exact ⟨k, _, hk, htype⟩

/-- A tag in one of the four places has a readiness bit (R35, R350). -/
theorem State.Sound.tag_lt {s : State} (h : s.Sound) {p : Nat} (hp : p ∈ s.registerPlaces) :
    p < s.specReady.length := by
  obtain ⟨hs, hc⟩ := h
  rw [hs.shaped.specReady_length]
  exact List.mem_range.mp (hc.partition.mem_iff.mp hp)

theorem State.Sound.exists_mapped {s : State} (h : s.Sound) {a : Nat} (ha : a < s.cfg.numArch) :
    ∃ p, s.specMap[a]? = some p ∧ p < s.specReady.length := by
  have hlt : a < s.specMap.length := h.1.shaped.specMap_length ▸ ha
  refine ⟨s.specMap[a], List.getElem?_eq_getElem hlt, h.tag_lt ?_⟩
  simp [State.registerPlaces]

theorem State.Sound.mapsSources {s : State} (h : s.Sound) {j : Nat} (hj : j < s.progLen) :
    s.mapsSources (s.record j).instr :=
  ⟨fun _ ha => h.exists_mapped (h.1.operand_lt hj (.inr (.inl ha))),
    fun _ ha => h.exists_mapped (h.1.operand_lt hj (.inr (.inr ha)))⟩

/-- A destination finds a register where the free list is not empty (R203, R206). -/
theorem State.Sound.exists_renaming {s : State} (h : s.Sound) {d : Operand} (hd : ∀ a ∈ d, a < s.cfg.numArch)
    (hfree : d = none ∨ s.freeList ≠ []) : ∃ n, s.renameDestination d = .ok n := by
  cases d with
  | none => exact ⟨_, State.renameDestination_eq_ok.mpr (.inl ⟨rfl, rfl⟩)⟩
  | some a =>
    obtain ⟨t, rest, hcons⟩ := List.exists_cons_of_ne_nil (hfree.resolve_left (Option.some_ne_none a))
    obtain ⟨old, hold, -⟩ := h.exists_mapped (hd a rfl)
    have ht : t < s.specReady.length := h.tag_lt (by simp [State.registerPlaces, hcons])
    exact ⟨_, State.renameDestination_eq_ok.mpr (.inr ⟨a, t, rest, old, rfl, hcons, hold, ht, rfl⟩)⟩

/-- The tag of an instruction in flight is mapped or is a Told, and so has a readiness bit. -/
theorem State.InProgramOrder.pd_lt {s : State} (h : s.InProgramOrder) {j p : Nat} (hj : s.InFlight j)
    (hpd : (s.record j).pd = some p) : p < s.specReady.length := by
  obtain ⟨⟨hs, hc⟩, hr⟩ := h
  have hdst := hc.pd_iff j hj.2
  rw [hpd] at hdst
  obtain ⟨a, ha⟩ := Option.isSome_iff_exists.mp hdst.symm
  refine State.Sound.tag_lt ⟨hs, hc⟩ ?_
  obtain ⟨-, hmap⟩ | ⟨e, he, -, -, hold⟩ := mapped_or_told hs hr hj ha
  · simp [State.registerPlaces, List.mem_of_getElem? (hmap.trans hpd)]
  · have htold : p ∈ s.robEntries.filterMap RobEntry.oldTag := List.mem_filterMap.mpr ⟨e, he, hold.trans hpd⟩
    simp [State.registerPlaces, htold]

/-- The broadcast of an instruction in flight, with its readiness bit, is possible (R262, R263). -/
theorem State.InProgramOrder.exists_markReady {s : State} (h : s.InProgramOrder) {j : Nat} (hj : s.InFlight j) :
    ∃ v, (s.broadcast (s.record j).pd).markReady (s.record j).pd = .ok v := by
  cases hpd : (s.record j).pd with
  | none => exact ⟨s, markReady_broadcast_eq_ok.mpr (.inl ⟨rfl, rfl⟩)⟩
  | some p => exact ⟨_, markReady_broadcast_eq_ok.mpr (.inr ⟨p, rfl, h.pd_lt hj hpd, rfl⟩)⟩

/-- The entry at the ROB head has the tags that its instruction commits and releases (R283, R284). -/
theorem State.Sound.exists_commit {s : State} (h : s.Sound) {e : RobEntry} (he : e ∈ s.robEntries) :
    ∃ v, s.commit (s.record e.inst).instr.dst e = .ok v := by
  obtain ⟨hs, hc⟩ := h
  obtain ⟨-, hdispatched⟩ := hs.inst_mem_rob he
  have hnew := (congrArg Option.isSome (hc.newTag_eq e he)).trans (hc.pd_iff e.inst hdispatched)
  have hold := hc.oldTag_iff e he
  have hlt : ∀ a ∈ (s.record e.inst).instr.dst, a < s.archMap.length := fun a ha =>
    hs.shaped.archMap_length ▸ hs.operand_lt (hs.lt_progLen_of_dispatched hdispatched) (.inl ha)
  cases hdst : (s.record e.inst).instr.dst with
  | none => exact ⟨s, State.commit_eq_ok.mpr (.inl ⟨rfl, rfl⟩)⟩
  | some a =>
    rw [hdst] at hnew hold
    obtain ⟨p, hp⟩ := Option.isSome_iff_exists.mp hnew
    obtain ⟨q, hq⟩ := Option.isSome_iff_exists.mp hold
    exact ⟨_, State.commit_eq_ok.mpr (.inr ⟨a, p, q, rfl, hp, hq, hlt a hdst, rfl⟩)⟩

/-! ## The operations do not look at the selection -/

section Selected

variable {s : State} {st : Stage} {j : Nat}

theorem renameDestination_of_select {d : Operand} {n : Renaming} (hn : s.renameDestination d = .ok n) :
    (s.select st j).renameDestination d = .ok ⟨n.state.select st j, n.newTag, n.oldTag⟩ := by
  obtain ⟨rfl, rfl⟩ | ⟨a, t, rest, old, rfl, hfree, hmap, ht, rfl⟩ := State.renameDestination_eq_ok.mp hn
  · rfl
  · exact State.renameDestination_eq_ok.mpr (.inr ⟨a, t, rest, old, rfl, hfree, hmap, ht, rfl⟩)

theorem markReady_broadcast_of_select {o : Option Nat} {v : State} (hv : (s.broadcast o).markReady o = .ok v) :
    ((s.select st j).broadcast o).markReady o = .ok (v.select st j) := by
  obtain ⟨rfl, rfl⟩ | ⟨p, rfl, hp, rfl⟩ := markReady_broadcast_eq_ok.mp hv
  · rfl
  · exact markReady_broadcast_eq_ok.mpr (.inr ⟨p, rfl, hp, rfl⟩)

theorem commit_of_select {d : Operand} {e : RobEntry} {v : State} (hv : s.commit d e = .ok v) :
    (s.select st j).commit d e = .ok (v.select st j) := by
  obtain ⟨rfl, rfl⟩ | ⟨a, p, old, rfl, hp, hold, ha, rfl⟩ := State.commit_eq_ok.mp hv
  · rfl
  · exact State.commit_eq_ok.mpr (.inr ⟨a, p, old, rfl, hp, hold, ha, rfl⟩)

end Selected

/-! ## Every meaning answers

A move ends the selection it was made under, so a move of the selected state is the move of the state itself. -/

/-- What a stage does with an instruction is what its meaning does (R160). -/
theorem present_of_record {s : State} {st : Stage} {j : Nat} {r : InstrRecord} (hr : s.recs[j]? = some r) :
    present st j s = exec r.instr (s.select st j) := by
  simp only [present, hr]

/-- A move has ended its selection. -/
theorem State.InProgramOrder.advances {u : State} (hu : u.InProgramOrder) {o : Result} (ho : o = .next u) :
    AnswersDeselected State.InProgramOrder o := by
  refine ⟨u, ho, ?_⟩
  simpa only [State.deselect_of_idle hu.1.1.shaped.idle] using hu

section Meanings

variable {s : State} (h : s.InProgramOrder)

include h

theorem State.InProgramOrder.stalls {st : Stage} {j : Nat} {o : Result} (ho : o = .next (s.select st j)) :
    AnswersDeselected State.InProgramOrder o := by
  refine ⟨_, ho, ?_⟩
  simpa only [State.deselect_select s st j h.1.1.shaped.idle] using h

theorem State.InProgramOrder.present_retire (hcount : s.robCount ≠ 0) :
    ∃ e, s.rob[s.robHead]? = some e ∧ AnswersDeselected State.InProgramOrder (present .retire e.inst s) := by
  have hs := h.1.1
  obtain ⟨e, he⟩ := hs.exists_head
  have hmem : e ∈ s.robEntries := List.mem_of_getElem? (State.robEntries_getElem?_zero hs.shaped.robHead_lt hcount he)
  have hr := hs.getElem?_record (hs.lt_progLen_of_dispatched (hs.inst_mem_rob hmem).2)
  refine ⟨e, he, ?_⟩
  rw [present_of_record hr, exec_retire _ rfl]
  cases hdone : (s.record e.inst).completed with
  | false => exact h.stalls (retireStage_of_not_completed he hr hdone)
  | true =>
    obtain ⟨v, hv⟩ := h.1.exists_commit hmem
    have hkept := inProgramOrder_keptByRetire s e _ v h hcount he hr hdone hv
    exact hkept.advances (Eq.trans (retireStage_of_completed hcount he hr hdone (commit_of_select hv)) rfl)

theorem State.InProgramOrder.present_complete {j : Nat} (hj : j ∈ s.cq) :
    AnswersDeselected State.InProgramOrder (present .complete j s) := by
  have hs := h.1.1
  have hr := hs.getElem?_record (hs.placed.cq_lt j hj)
  rw [present_of_record hr, exec_complete _ rfl]
  by_cases hdue : (s.record j).ts.execute + (s.record j).lat ≤ s.cycle
  · obtain ⟨v, hv⟩ := h.exists_markReady (hs.inFlight_of_mem_cq hj)
    have hkept := inProgramOrder_keptByComplete s j _ v h hj hr hdue hv
    exact hkept.advances (Eq.trans (completeStage_of_due hr hdue (markReady_broadcast_of_select hv)) rfl)
  · exact h.stalls (completeStage_of_not_due hr (Int.not_le.mp hdue))

theorem State.InProgramOrder.present_execute {j : Nat} {rest : List Nat} (hxq : s.xq = j :: rest) :
    AnswersDeselected State.InProgramOrder (present .execute j s) := by
  have hs := h.1.1
  have hmem : j ∈ s.xq := by simp [hxq]
  have hr := hs.getElem?_record (hs.placed.xq_lt j hmem)
  rw [present_of_record hr, exec_execute _ rfl]
  cases hroom : s.cqFull with
  | true => exact h.stalls (executeStage_of_full hroom)
  | false =>
    obtain ⟨k, type, hk, htype⟩ := hs.station_of_mem_xq hmem
    have hkept := inProgramOrder_keptAfterComplete.execute s j rest _ k type h hxq hr
      (State.cqFull_eq_false.mp hroom) hk htype
    exact hkept.advances (executeStage_of_room hroom hr hk htype)

theorem State.InProgramOrder.present_issue {k j : Nat} {st : Station} (hst : s.rs[k]? = some st)
    (hheld : st.held = some j) : AnswersDeselected State.InProgramOrder (present .issue j s) := by
  have hs := h.1.1
  have hr := hs.getElem?_record (hs.of_held hst hheld).1
  rw [present_of_record hr, exec_issue _ rfl]
  by_cases hblocked : s.xqFull = true
      ∨ readyToExecute (s.record j).instr.src1 (s.record j).instr.src2 (s.record j) = false
      ∨ (s.record j).issued = true
  · exact h.stalls (issueStage_of_blocked hr hblocked)
  · simp only [not_or, Bool.not_eq_true, Bool.not_eq_false] at hblocked
    obtain ⟨hroom, hready, hissued⟩ := hblocked
    have hkept := inProgramOrder_keptAfterComplete.issue s k st j _ h hst hheld hr
      (State.xqFull_eq_false.mp hroom) hready hissued
    exact hkept.advances (issueStage_of_ready hr hroom hready hissued)

theorem State.InProgramOrder.present_dispatch {j : Nat} {rest : List Nat} (hdq : s.dq = j :: rest) :
    AnswersDeselected State.InProgramOrder (present .dispatch j s) := by
  have hs := h.1.1
  obtain ⟨hj, hfetched⟩ := hs.dq_head hdq
  have hlt : j < s.progLen := hj ▸ hfetched.trans_le hs.placed.fetchPtr_le
  have hr := hs.getElem?_record hlt
  rw [present_of_record hr]
  cases hstation : s.dispatchStation (s.record j).instr.kind (s.record j).instr.dst with
  | none => exact h.stalls ((exec_dispatch _ rfl).trans (dispatchStage_of_no_station hstation))
  | some k =>
    obtain ⟨hcount, hk, hfree⟩ := State.dispatchStation_eq_some.mp hstation
    have hsources := h.1.mapsSources hlt
    obtain ⟨n, hn⟩ := h.1.exists_renaming (fun a ha => hs.operand_lt hlt (.inl ha)) hfree
    have hkept := inProgramOrder_keptAfterComplete.dispatch s j rest _ k _ _ n h hdq hr hstation
      (State.renameSource_of_mapped hsources.1) (State.renameSource_of_mapped hsources.2) hn
    exact hkept.advances (Eq.trans (exec_dispatch_of_resources rfl hcount hs.shaped.rob_length hk hsources
      (renameDestination_of_select hn)) rfl)

theorem State.InProgramOrder.present_decode {j : Nat} {rest : List Nat} (hfq : s.fq = j :: rest) :
    AnswersDeselected State.InProgramOrder (present .decode j s) := by
  have hs := h.1.1
  have hmem : j ∈ s.fq := by simp [hfq]
  have hr := hs.getElem?_record ((hs.mem_fq.mp hmem).2.trans_le hs.placed.fetchPtr_le)
  rw [present_of_record hr, exec_decode _ rfl]
  cases hroom : s.dqFull with
  | true => exact h.stalls (decodeStage_of_full hroom)
  | false =>
    have hkept := inProgramOrder_keptAfterComplete.decode s j rest h hfq (State.dqFull_eq_false.mp hroom)
    exact hkept.advances (decodeStage_of_room hroom)

/-- The descriptor at the fetch pointer decodes, since the whole program does (R17, R103). -/
theorem State.InProgramOrder.presentFetched (hlt : s.fetchPtr < s.progLen) :
    AnswersDeselected State.InProgramOrder (presentFetched s) := by
  obtain ⟨i, -, hdecode⟩ := decode_of_decodeFrom_eq_ok h.1.1.shaped.loaded hlt
  rw [Nat.zero_add] at hdecode
  rw [presentFetched_of_decode (State.progRead_eq_some.mpr ⟨hlt, rfl⟩) hdecode, exec_fetch i rfl]
  cases hroom : s.fqFull with
  | true => exact h.stalls (fetchStage_of_full hroom)
  | false =>
    have hkept := inProgramOrder_keptAfterComplete.fetch s h hlt (State.fqFull_eq_false.mp hroom)
    exact hkept.advances (fetchStage_of_room hroom)

end Meanings

/-! ## The whole step -/

/-- The seven stages, one after another, from the state that the start of the cycle leaves (R131). -/
theorem cycleStep_answers {s : State} (h : (cycleStart s).InProgramOrder) : ∃ t, cycleStep s = .next t := by
  have hstages : Answers State.InProgramOrder (stagesBeforeFetch s) :=
    (retireLoop_answers (fun _ h => h.present_retire) _ _ h).andThen fun u hu =>
    (completeScan_answers (fun _ _ h => h.present_complete) _ u
      (hu.1.1.placed.cq_nodup.sublist (List.take_sublist _ _)) (fun _ => List.mem_of_mem_take) hu).andThen fun u hu =>
    (executeLoop_answers (fun _ _ _ h => h.present_execute) _ u hu).andThen fun u hu =>
    (issueScan_answers (fun _ _ _ _ h => h.present_issue) _ _ u hu).andThen fun u hu =>
    (dispatchLoop_answers (fun _ _ _ h => h.present_dispatch) _ u hu).andThen fun u hu =>
    decodeLoop_answers (fun _ _ _ h => h.present_decode) _ u hu
  obtain ⟨u, hu, hPu⟩ := hstages
  obtain ⟨v, hv, -⟩ := fetchLoop_answers (fun _ h => h.presentFetched) u.cfg.width u hPu
  exact ⟨_, cycleStep_eq_next.mpr ⟨u, v, hu, hv, rfl⟩⟩

/-- Settles O52: an admitted block holds its reset state, stays as it is after a halt, or performs a cycle, in which
every meaning answers. -/
theorem noStepStops : Obligations.NoStepStops := by
  intro s hs hc hr
  have hadmitted := hs.shaped.admitted
  cases hrst : s.rst with
  | true => exact ⟨_, step_eq_next.mpr ⟨hadmitted, .inl ⟨hrst, rfl⟩⟩⟩
  | false =>
    by_cases hrunning : s.status = .running
    · rw [step_eq_cycleStep ⟨hadmitted, hrst, hrunning⟩]
      exact cycleStep_answers ⟨⟨hs.cycleStart, hc.cycleStart⟩, hr.cycleStart⟩
    · exact ⟨s, haltedBlockIgnoresEdges s hadmitted hrst hrunning⟩

end Sys2Proof.Machine
end

section
/-!
SUPPORT. Whole runs: every run of an accepted program goes on and stays good, a run that ends DONE leaves a complete
report, and the run of an empty program ends in its first cycle (R300 to R302, R307, R330, R332, R350 to R353).
-/
namespace Sys2Proof.Machine

/-! ## Runs that go on -/

/-- Where every step from a state with `P` answers a state with `P`, every run does. -/
theorem run_answers {P : State → Prop} (hstep : ∀ s, P s → Answers P (step s)) {k : Nat} {s : State} (hs : P s) :
    Answers P (State.run k s) := by
  induction k generalizing s with
  | zero => exact .next hs
  | succ k ih =>
    obtain ⟨u, hu, hPu⟩ := hstep s hs
    obtain ⟨t, ht, hPt⟩ := ih hPu
    exact ⟨t, State.run_succ.mpr ⟨u, hu, ht⟩, hPt⟩

theorem State.Good.step_answers {s : State} (h : s.Good) : Answers State.Good (step s) := by
  obtain ⟨t, ht⟩ := noStepStops s h.structured h.conserved h.renamed
  exact ⟨t, ht, {
    structured := stepKeepsStructure s t h.structured ht
    conserved := stepConservesRegisters s t h.structured h.conserved ht
    renamed := stepKeepsRenaming s t h.structured h.conserved h.renamed ht
    timed := stepKeepsTimestampOrder s t h ht }⟩

/-- What load answers for an accepted program is the reset state with its records (R17, R330, R332). -/
theorem State.load_eq_ofReset_of_decoded {c : Config} {ws : List Word} {is : List Instr}
    (h : decodeFrom c.numArch (Memory.writeProgram [] 0 ws) 0 ws.length = .ok is) :
    State.load c ws = State.ofReset c ws.length (Memory.writeProgram [] 0 ws) is := by
  simp only [State.load, State.construct, h]

@[simp] theorem State.load_cfg (c : Config) (ws : List Word) : (State.load c ws).cfg = c := by
  obtain ⟨n, prog, is, hload⟩ := State.load_eq_ofReset c ws
  rw [hload, State.ofReset_cfg]

theorem load_good {c : Config} {ws : List Word} (h : (State.load c ws).admission = none) :
    (State.load c ws).Good := by
  obtain ⟨hlegal, is, hprogram⟩ := State.admission_eq_none.mp h
  rw [State.load_cfg] at hlegal
  rw [State.program, State.load_cfg, State.load_prog, State.load_progLen] at hprogram
  rw [State.load_eq_ofReset_of_decoded hprogram]
  exact {
    structured := ofReset_structured hlegal hprogram (Memory.wf_writeProgram 0 ws Memory.wf_nil)
    conserved := ofReset_conserved _ _ is hlegal
    renamed := ofReset_renamed c _ _ is hlegal
    timed := State.timed_of_fresh (State.record_ofReset_fresh c _ _ is) rfl }

/-- Settles O51: load starts in a good state, and every step from a good state answers a good state. -/
theorem everyRunStaysGood : Obligations.EveryRunStaysGood := fun _ _ _ hadmitted =>
  run_answers (fun _ => State.Good.step_answers) (load_good hadmitted)

/-! ## The report of a run that ends DONE -/

theorem InstrRecord.mem_reportRow {r : InstrRecord} {c : Int} (h : c ∈ r.reportRow) : ∃ st, r.ts.get st = c := by
  obtain ⟨st, -, hst⟩ := List.mem_map.mp h
  exact ⟨st, hst⟩

/-- A retired instruction has passed every stage (R42, R301). -/
theorem State.Structured.get_ne_unset_of_retired {s : State} (h : s.Structured) {j : Nat} (hj : j < s.progLen)
    (hretired : j < s.nRetired) (st : Stage) : (s.record j).ts.get st ≠ unset := by
  intro hunset
  have hretire : (s.record j).ts.get .retire = unset :=
    Stage.of_rank_le (P := fun st => (s.record j).ts.get st = unset) (fun _ => h.unset_later hj) (Nat.zero_le _) hunset
  exact (h.retire_set_iff hj).mpr hretired hretire

/-- Settles O56: the end of a cycle tests DONE first, and with every instruction retired every timestamp is set. -/
theorem doneReportIsComplete : Obligations.DoneReportIsComplete := by
  refine ⟨fun s t hs ht hall => ?_, fun s h hdone => ⟨_, if_neg (by simp [hdone]), ?_, fun row hrow => ?_⟩⟩
  · obtain ⟨hended, -⟩ := cycleEndsAsWatchdogSays s t hs ht
    exact hended.mpr hall
  · rw [List.length_map, h.shaped.recs_length]
  · obtain ⟨r, hmem, rfl⟩ := List.mem_map.mp hrow
    obtain ⟨j, hr⟩ := List.getElem?_of_mem hmem
    have hj := h.lt_progLen_of_getElem? hr
    refine ⟨rfl, fun c hc => ?_⟩
    obtain ⟨st, rfl⟩ := InstrRecord.mem_reportRow hc
    rw [← State.record_eq_of_getElem? hr]
    exact h.get_ne_unset_of_retired hj (h.placed.done_all hdone ▸ hj) st

/-! ## The empty program -/

/-- Issue passes over idle stations. -/
theorem issueScan_of_idle {s : State} (hidle : ∀ k : Nat, s.rs[k]?.bind Station.held = none) (ks : List Nat)
    (n : Nat) : issueScan ks n s = .next s := by
  induction ks with
  | nil => rfl
  | cons k ks ih =>
    by_cases hroom : (n = 0 || s.xqFull) = true
    · exact issueScan_of_no_room hroom
    · rw [issueScan_of_idle_station hroom (hidle k), ih]

theorem State.load_nil (c : Config) : State.load c [] = State.ofReset c 0 [] [] := rfl

theorem State.stationHeld_ofReset (c : Config) (n : Nat) (prog : Memory) (is : List Instr) (k : Nat) :
    (State.ofReset c n prog is).rs[k]?.bind Station.held = none := by
  rw [State.ofReset_rs, List.getElem?_replicate]
  split <;> rfl

/-- With nothing to fetch, nothing in a queue, in the ROB or in a station, no stage finds an instruction. -/
theorem cycleStep_ofReset_empty (c : Config) :
    cycleStep (State.ofReset c 0 [] []) = .next { State.ofReset c 0 [] [] with status := .done } := by
  have hstart : cycleStart (State.ofReset c 0 [] []) = State.ofReset c 0 [] [] := by
    simp [cycleStart, State.ofReset]
  rw [← cycleEnd_of_all_retired (s := State.ofReset c 0 [] []) rfl]
  refine cycleStep_of_stuck ?_ ?_ (executeLoop_of_empty rfl)
    (issueScan_of_idle (State.stationHeld_ofReset c 0 [] []) _ _) (dispatchLoop_of_empty rfl) (decodeLoop_of_empty rfl)
    (fetchLoop_of_end (Nat.lt_irrefl 0))
  · rw [hstart]
    exact retireLoop_of_empty rfl
  · simp [State.candidates, completeScan]

/-- Settles O11: a legal configuration with no descriptor is admitted, and its first cycle finds nothing to do. -/
theorem emptyProgramEndsDone : Obligations.EmptyProgramEndsDone := by
  intro c hlegal
  rw [State.load_nil]
  have hadmitted : (State.ofReset c 0 [] []).admission = none := State.admission_eq_none.mpr ⟨hlegal, [], rfl⟩
  rw [step_eq_cycleStep ⟨hadmitted, rfl, rfl⟩]
  exact cycleStep_ofReset_empty c

end Sys2Proof.Machine
end
section
/-!
SUPPORT. Reset and load: the state right after reset and every loaded program are good, and an asserted `rst` restores
the reset state (R330 to R332).
-/
namespace Sys2Proof.Machine

/-- Where every record is as load made it and CQ is empty, nothing has completed and nothing waits to. -/
theorem State.onTime_of_fresh {s : State} (hfresh : ∀ j, ∃ i, s.record j = InstrRecord.fresh i) (hcq : s.cq = []) :
    s.OnTime where
  exact j _ hcompleted := by
    obtain ⟨i, hi⟩ := hfresh j
    rw [hi] at hcompleted
    cases hcompleted
  not_overdue j hj := by
    rw [hcq] at hj
    exact absurd hj List.not_mem_nil

theorem load_onTime (c : Config) (ws : List Word) : (State.load c ws).OnTime := by
  obtain ⟨n, prog, is, hload⟩ := State.load_eq_ofReset c ws
  rw [hload]
  exact State.onTime_of_fresh (State.record_ofReset_fresh c n prog is) rfl

/-- Settles O44: an admitted program is loaded into the reset state of its configuration, which is good. -/
theorem loadedProgramIsGood : Obligations.LoadedProgramIsGood := fun c ws hadmitted =>
  ⟨load_good hadmitted, load_onTime c ws⟩

theorem State.reset_eq_load : State.reset = State.load Config.initial [] := rfl

theorem State.load_initial_admission : (State.load Config.initial []).admission = none :=
  State.admission_eq_none.mpr ⟨rfl, [], rfl⟩

/-- Settles O43: the state right after reset is the one an empty program is loaded into. -/
theorem resetStateIsGood : Obligations.ResetStateIsGood := by
  rw [Obligations.ResetStateIsGood, State.reset_eq_load]
  exact load_good State.load_initial_admission

/-- Settles O10: the edge of an asserted `rst` is the first case of a step, whatever the status. -/
theorem assertedResetRestoresResetState : Obligations.AssertedResetRestoresResetState :=
  fun _ _ hadmitted hprogram hrst =>
    step_eq_next.mpr ⟨hadmitted, .inl ⟨hrst, (State.heldInReset_eq hprogram).symm⟩⟩

end Sys2Proof.Machine
end

section
/-!
SUPPORT. What a good state says of its registers, of a producer and its consumer, and of the names of the tags (R345,
R351, R356).
-/
namespace Sys2Proof.Machine

/-- Settles O58: each stage procedure commutes with relabelling, and so does the cycle they make up. -/
theorem relabellingCommutesWithStep : Obligations.RelabellingCommutesWithStep := by
  intro σ s hσ hlen hs
  have hrelabelled : (s.relabel σ).performsCycle := hs
  rw [step_eq_cycleStep hs, step_eq_cycleStep hrelabelled]
  exact (cycleStep_commutes hσ s hlen).relabel

/-- Settles O47: the places of a register are disjoint, since together they list every register once. -/
theorem speculativeMapIsInjective : Obligations.SpeculativeMapIsInjective := by
  intro s hc
  have hnodup : s.registerPlaces.Nodup := hc.partition.nodup_iff.mpr List.nodup_range
  obtain ⟨-, -, hpending⟩ := List.nodup_append'.mp hnodup
  obtain ⟨hmap, -, htold, hfree⟩ := hc.places_nodup
  refine ⟨hmap, fun p hp => ⟨fun hmem => hfree p hmem hp, fun hmem => ?_, fun e he hold => ?_⟩⟩
  · exact hpending (by simp [hp]) hmem
  · exact htold p hp (List.mem_filterMap.mpr ⟨e, he, hold⟩)

/-- A producer completes at least `1 + max(1, lat)` cycles after it issued (R242, R261, R353). -/
theorem State.Good.issue_to_complete {s : State} (h : s.Good) {i : Nat} (hi : i < s.progLen)
    (hset : (s.record i).ts.complete ≠ unset) :
    (s.record i).ts.issue + 1 + (max 1 (s.cfg.lat (s.record i).instr.kind) : Nat) ≤ (s.record i).ts.complete := by
  have hcoherent := h.structured.coherent hi
  have hcompleted := hcoherent.complete_set.mp hset
  have hexecuted := hcoherent.completed_executed hcompleted
  obtain ⟨-, -, -, hissue, -, -⟩ := h.timed.monotone i hi
  obtain ⟨-, hlt⟩ := hissue (of_decide_eq_true hexecuted)
  have hlatency := h.timed.latency i hi hcompleted
  rw [hcoherent.lat_eq hexecuted] at hlatency
  omega

/-- Settles O57: the consumer issues no earlier than its producer completes. -/
theorem consumerIssuesAfterProducer : Obligations.ConsumerIssuesAfterProducer := by
  intro s i j a h hj hissued hsource hwriter
  have hproduced : s.issuedAfter a j :=
    hsource.elim (h.timed.raw1 j hj hissued a) (h.timed.raw2 j hj hissued a)
  obtain ⟨hset, hle⟩ := hproduced i hwriter
  have hi : i < s.progLen := (State.lastWriter_spec hwriter).1.trans hj
  exact (h.issue_to_complete hi hset).trans hle

end Sys2Proof.Machine
end

section
/-!
SUPPORT. A cycle without progress is one whose every stage is stalled, and what a stalled stage says of the instruction
it looks at: each guard of each rule that fails (R135, R140, R181, R185, R201 to R203, R231, R236, R240, R261, R281).
-/
namespace Sys2Proof.Machine

/-! ## Procedures that report their progress -/

/-- A stage procedure never clears the progress flag, and where the flag stays clear it leaves the state as it is
(R135). -/
structure ReportsProgress (f : State → Result) : Prop where
  keeps : ∀ {s t}, f s = .next t → s.progress = true → t.progress = true
  same : ∀ {s t}, f s = .next t → s.active = none → t.progress = false → t = s

theorem ReportsProgress.quiet_before {f : State → Result} (hf : ReportsProgress f) {s t : State} (h : f s = .next t)
    (hquiet : t.progress = false) : s.progress = false :=
  Bool.eq_false_iff.mpr fun hs => Bool.eq_false_iff.mp hquiet (hf.keeps h hs)

theorem StuckUnlessProgress.reportsProgress {f : State → Result} (hstuck : StuckUnlessProgress f)
    (hkeeps : ∀ s t, s.progress = true → f s = .next t → t.progress = true) : ReportsProgress f where
  keeps h hs := hkeeps _ _ hs h
  same h hidle hquiet := (hstuck _ _ hidle h hquiet).same

theorem retireLoop_reports (n : Nat) : ReportsProgress (retireLoop n) :=
  (retireLoop_stuck n).reportsProgress fun _ _ => (progress_keptInStage .retire).retireLoop

theorem completeScan_reports (js : List Nat) : ReportsProgress (completeScan js) where
  keeps h hs := (progress_keptInStage .complete).completeScan hs h
  same h hidle hquiet := completeScan_unless_progress hidle h hquiet

theorem executeLoop_reports (n : Nat) : ReportsProgress (executeLoop n) :=
  (executeLoop_stuck n).reportsProgress fun _ _ => (progress_keptInStage .execute).executeLoop

theorem issueScan_reports (ks : List Nat) (n : Nat) : ReportsProgress (issueScan ks n) :=
  (issueScan_stuck ks n).reportsProgress fun _ _ => (progress_keptInStage .issue).issueScan

theorem dispatchLoop_reports (n : Nat) : ReportsProgress (dispatchLoop n) :=
  (dispatchLoop_stuck n).reportsProgress fun _ _ => (progress_keptInStage .dispatch).dispatchLoop

theorem decodeLoop_reports (n : Nat) : ReportsProgress (decodeLoop n) :=
  (decodeLoop_stuck n).reportsProgress fun _ _ => (progress_keptInStage .decode).decodeLoop

theorem fetchLoop_reports (n : Nat) : ReportsProgress (fetchLoop n) :=
  (fetchLoop_stuck n).reportsProgress fun _ _ => (progress_keptInStage .fetch).fetchLoop

/-! ## A stalled block -/

/-- No stage advances anything in `s` (R140). -/
structure State.Stalled (s : State) : Prop where
  idle : s.active = none
  quiet : s.progress = false
  retire : retireLoop s.cfg.width s = .next s
  complete : completeScan s.candidates s = .next s
  execute : executeLoop s.cfg.width s = .next s
  issue : issueScan s.scanOrder s.cfg.width s = .next s
  dispatch : dispatchLoop s.cfg.width s = .next s
  decode : decodeLoop s.cfg.width s = .next s
  fetch : fetchLoop s.cfg.width s = .next s

/-- A cycle that ends with the progress flag clear found the block stalled, and changed nothing after its start. -/
theorem cycleStep_stalled {s t : State} (hidle : s.active = none) (h : cycleStep s = .next t)
    (hquiet : t.progress = false) : (cycleStart s).Stalled ∧ t = cycleEnd (cycleStart s) := by
  obtain ⟨s1, s2, s3, s4, s5, s6, s7, h1, h2, h3, h4, h5, h6, h7, rfl⟩ := cycleStep_stages h
  have hidle : (cycleStart s).active = none := hidle
  have q7 : s7.progress = false := (cycleEnd_progress s7).symm.trans hquiet
  have q6 := (fetchLoop_reports _).quiet_before h7 q7
  have q5 := (decodeLoop_reports _).quiet_before h6 q6
  have q4 := (dispatchLoop_reports _).quiet_before h5 q5
  have q3 := (issueScan_reports _ _).quiet_before h4 q4
  have q2 := (executeLoop_reports _).quiet_before h3 q3
  have q1 := (completeScan_reports _).quiet_before h2 q2
  obtain rfl := (retireLoop_reports _).same h1 hidle q1
  obtain rfl := (completeScan_reports _).same h2 hidle q2
  obtain rfl := (executeLoop_reports _).same h3 hidle q3
  obtain rfl := (issueScan_reports _ _).same h4 hidle q4
  obtain rfl := (dispatchLoop_reports _).same h5 hidle q5
  obtain rfl := (decodeLoop_reports _).same h6 hidle q6
  obtain rfl := (fetchLoop_reports _).same h7 hidle q7
  exact ⟨⟨hidle, q7, h1, h2, h3, h4, h5, h6, h7⟩, rfl⟩

/-! ## The meanings that a stalled block selects -/

/-- A meaning that ends in a state without progress did not advance. -/
theorem stalls_of_quiet {s u t : State} {st : Stage} {j : Nat} (h : u = s.select st j ∨ s.Emits st j u)
    (hkeeps : u.progress = true → t.progress = true) (hquiet : t.progress = false) : u = s.select st j :=
  h.resolve_right fun hemits => Bool.eq_false_iff.mp hquiet (hkeeps hemits.progress)

/-- The first turn of a loop that leaves a quiet state as it is. -/
theorem stall_of_orStall {s : State} {st : Stage} {j : Nat} {o : Result} {k : State → Result}
    (ho : ∀ u, o = .next u → u = s.select st j ∨ s.Emits st j u) (hk : ReportsProgress k)
    (h : orStall o k = .next s) (hquiet : s.progress = false) : o = .next (s.select st j) := by
  obtain ⟨u, hu, hrest⟩ := orStall_eq_next.mp h
  rw [hu, stalls_of_quiet (ho u hu) (fun hp => ?_) hquiet]
  obtain ⟨-, hnext⟩ | ⟨-, rfl⟩ := hrest
  · exact hk.keeps hnext hp
  · exact hp

/-- A scan that issues nothing with room in XQ has passed over every busy station. -/
theorem issueScan_passes_over {s : State} {ks : List Nat} {n k j : Nat} (hroom : ¬(n = 0 || s.xqFull) = true)
    (hidle : s.active = none) (hquiet : s.progress = false) (hscan : issueScan ks n s = .next s) (hk : k ∈ ks)
    (hheld : s.rs[k]?.bind Station.held = some j) : present .issue j s = .next (s.select .issue j) := by
  induction ks with
  | nil => exact absurd hk List.not_mem_nil
  | cons m ks ih =>
    cases hm : s.rs[m]?.bind Station.held with
    | none =>
      rw [issueScan_of_idle_station hroom hm] at hscan
      refine ih hscan ((List.mem_cons.mp hk).resolve_left fun hkm => ?_)
      rw [hkm, hm] at hheld
      cases hheld
    | some i =>
      rw [issueScan_of_held hroom hm] at hscan
      obtain ⟨u, hu, hrest⟩ := andThen_eq_next.mp hscan
      have hstall : u = s.select .issue i := by
        refine stalls_of_quiet (present_stalls_or_emits hu) (fun hp => ?_) hquiet
        split at hrest
        · exact (issueScan_reports _ _).keeps hrest hp
        · exact (issueScan_reports _ _).keeps (s := u.deselect) hrest hp
      obtain rfl | hk := List.mem_cons.mp hk
      · rw [hm] at hheld
        cases hheld
        rw [hu, hstall]
      · rw [hstall] at hrest
        exact ih (by simpa [State.deselect_select s .issue i hidle] using hrest) hk

/-- Every station is scanned under either policy (R234, R235). -/
theorem State.mem_scanOrder (s : State) {k : Nat} (hk : k < s.rs.length) : k ∈ s.scanOrder := by
  obtain ⟨horder, hage⟩ := scanOrderFollowsPolicy s
  cases hpolicy : s.cfg.issuePolicy with
  | stationOrder => exact horder hpolicy ▸ List.mem_range.mpr hk
  | oldestFirst => exact (hage hpolicy).1.mem_iff.mpr (List.mem_range.mpr hk)

/-- The first turn of a stalled loop was a stall. -/
theorem stall_of_loop {s : State} {st : Stage} {j : Nat} {o : Result} {f : Nat → State → Result}
    (hwidth : 1 ≤ s.cfg.width) (hturn : ∀ n, f (n + 1) s = orStall o (f n))
    (ho : ∀ u, o = .next u → u = s.select st j ∨ s.Emits st j u) (hf : ∀ n, ReportsProgress (f n))
    (h : f s.cfg.width s = .next s) (hquiet : s.progress = false) : o = .next (s.select st j) := by
  rw [← Nat.sub_add_cancel hwidth, hturn] at h
  exact stall_of_orStall ho (hf _) h hquiet

section Stalled

variable {s : State} (h : s.Stalled) (hwidth : 1 ≤ s.cfg.width)

include h hwidth

theorem State.Stalled.present_retire {e : RobEntry} (hcount : s.robCount ≠ 0) (he : s.rob[s.robHead]? = some e) :
    present .retire e.inst s = .next (s.select .retire e.inst) :=
  stall_of_loop hwidth (fun _ => retireLoop_succ hcount he) (fun _ => present_stalls_or_emits) retireLoop_reports
    h.retire h.quiet

theorem State.Stalled.present_execute {j : Nat} {rest : List Nat} (hxq : s.xq = j :: rest) :
    present .execute j s = .next (s.select .execute j) :=
  stall_of_loop hwidth (fun _ => executeLoop_succ hxq) (fun _ => present_stalls_or_emits) executeLoop_reports
    h.execute h.quiet

theorem State.Stalled.present_dispatch {j : Nat} {rest : List Nat} (hdq : s.dq = j :: rest) :
    present .dispatch j s = .next (s.select .dispatch j) :=
  stall_of_loop hwidth (fun _ => dispatchLoop_succ hdq) (fun _ => present_stalls_or_emits) dispatchLoop_reports
    h.dispatch h.quiet

theorem State.Stalled.present_decode {j : Nat} {rest : List Nat} (hfq : s.fq = j :: rest) :
    present .decode j s = .next (s.select .decode j) :=
  stall_of_loop hwidth (fun _ => decodeLoop_succ hfq) (fun _ => present_stalls_or_emits) decodeLoop_reports
    h.decode h.quiet

theorem State.Stalled.presentFetched (hlt : s.fetchPtr < s.progLen) :
    presentFetched s = .next (s.select .fetch s.fetchPtr) :=
  stall_of_loop hwidth (fun _ => fetchLoop_succ hlt) (fun _ => presentFetched_stalls_or_emits) fetchLoop_reports
    h.fetch h.quiet

/-- The head of CQ is a candidate (R260). -/
theorem State.Stalled.present_complete {j : Nat} {rest : List Nat} (hcq : s.cq = j :: rest) :
    present .complete j s = .next (s.select .complete j) := by
  have hcandidates : s.candidates = j :: rest.take (s.cfg.width - 1) := by
    rw [State.candidates, hcq, List.take_cons hwidth]
  have hscan := h.complete
  rw [hcandidates, completeScan] at hscan
  obtain ⟨u, hu, hrest⟩ := andThen_eq_next.mp hscan
  rw [hu, stalls_of_quiet (present_stalls_or_emits hu) (fun hp => ?_) h.quiet]
  exact (completeScan_reports _).keeps (s := u.deselect) hrest hp

theorem State.Stalled.present_issue {k j : Nat} (hroom : s.xqFull = false)
    (hheld : s.rs[k]?.bind Station.held = some j) : present .issue j s = .next (s.select .issue j) := by
  obtain ⟨st, hst, -⟩ := Option.bind_eq_some_iff.mp hheld
  obtain ⟨hk, -⟩ := List.getElem?_eq_some_iff.mp hst
  exact issueScan_passes_over (by simp [hroom]; omega) h.idle h.quiet h.issue (s.mem_scanOrder hk) hheld

end Stalled

/-! ## The guard that fails -/

section Guards

variable {s : State} {j : Nat} {r : InstrRecord}

/-- An advance ends its selection, so it is no stall. -/
theorem State.select_ne_advanced {v : State} {st st' : Stage} {m : Nat} : s.select st j ≠ v.advanced st' m :=
  fun heq => Option.some_ne_none _ (congrArg State.active heq)

theorem not_completed_of_stall (hr : s.recs[j]? = some r) (hcount : s.robCount ≠ 0)
    (h : present .retire j s = .next (s.select .retire j)) : r.completed = false := by
  rw [present_of_record hr, exec_retire _ rfl] at h
  obtain ⟨hempty, -⟩ | ⟨e, r', -, -, hr', ⟨hnot, -⟩ | ⟨v, -, -, hmove⟩⟩ := retireStage_next h
  · exact absurd hempty hcount
  · rwa [Option.some.inj (hr.symm.trans hr')]
  · exact absurd hmove State.select_ne_advanced

theorem not_due_of_stall (hr : s.recs[j]? = some r) (h : present .complete j s = .next (s.select .complete j)) :
    (s.cycle : Int) < r.ts.execute + r.lat := by
  rw [present_of_record hr, exec_complete _ rfl] at h
  obtain ⟨r', hr', ⟨hearly, -⟩ | ⟨v, -, -, hmove⟩⟩ := completeStage_next h
  · rwa [Option.some.inj (hr.symm.trans hr')]
  · exact absurd hmove State.select_ne_advanced

theorem cqFull_of_stall (h : present .execute j s = .next (s.select .execute j)) : s.cqFull = true := by
  obtain ⟨r, -, hx⟩ := present_eq_next.mp h
  rw [exec_execute _ rfl] at hx
  obtain ⟨hfull, -⟩ | ⟨r', k, type, -, -, -, -, hmove⟩ := executeStage_next hx
  · exact hfull
  · exact absurd hmove State.select_ne_advanced

theorem blocked_of_stall (hr : s.recs[j]? = some r) (h : present .issue j s = .next (s.select .issue j)) :
    s.xqFull = true ∨ readyToExecute r.instr.src1 r.instr.src2 r = false ∨ r.issued = true := by
  rw [present_of_record hr, exec_issue _ rfl] at h
  obtain ⟨r', hr', ⟨hblocked, -⟩ | ⟨-, -, -, hmove⟩⟩ := issueStage_next h
  · obtain rfl : r = r' := Option.some.inj (hr.symm.trans hr')
    exact hblocked
  · exact absurd hmove State.select_ne_advanced

theorem no_station_of_stall (hr : s.recs[j]? = some r) (h : present .dispatch j s = .next (s.select .dispatch j)) :
    s.dispatchStation r.instr.kind r.instr.dst = none := by
  rw [present_of_record hr, exec_dispatch _ rfl] at h
  obtain ⟨hnone, -⟩ | ⟨k, src1, src2, n, v, -, -, -, -, -, hmove⟩ := dispatchStage_next h
  · exact hnone
  · exact absurd hmove State.select_ne_advanced

theorem dqFull_of_stall (h : present .decode j s = .next (s.select .decode j)) : s.dqFull = true := by
  obtain ⟨r, -, hx⟩ := present_eq_next.mp h
  rw [exec_decode _ rfl] at hx
  obtain ⟨hfull, -⟩ | ⟨-, hmove⟩ := decodeStage_next hx
  · exact hfull
  · exact absurd hmove State.select_ne_advanced

theorem fqFull_of_stall (h : presentFetched s = .next (s.select .fetch s.fetchPtr)) : s.fqFull = true := by
  obtain ⟨w, i, -, -, hx⟩ := presentFetched_eq_next.mp h
  rw [exec_fetch _ rfl] at hx
  obtain ⟨hfull, -⟩ | ⟨-, hmove⟩ := fetchStage_next hx
  · exact hfull
  · exact absurd hmove State.select_ne_advanced

end Guards

end Sys2Proof.Machine
end

section
/-!
SUPPORT. A block with the resources of R355 is never stalled with CQ empty before every instruction has retired: the
oldest instruction in the ROB has ready sources and could advance, and with an empty ROB the next one could dispatch, be
decoded or be fetched.
-/
namespace Sys2Proof.Machine

/-- The least sizes of a legal configuration (R10, R15). -/
theorem State.Shaped.sizes_pos {s : State} (h : s.Shaped) :
    1 ≤ s.cfg.robSize ∧ 1 ≤ s.cfg.width
      ∧ 1 ≤ s.cfg.capFQ ∧ 1 ≤ s.cfg.capDQ ∧ 1 ≤ s.cfg.capXQ ∧ 1 ≤ s.cfg.capCQ := by
  obtain ⟨hlegal, -⟩ := State.admission_eq_none.mp h.admitted
  simp only [Config.legal, Bool.and_eq_true, decide_eq_true_eq] at hlegal
  omega

/-- Every writer before the oldest unretired instruction has retired, and so has completed (R355). -/
theorem State.Structured.producerDone_oldest {s : State} (h : s.Structured) (a : Nat) :
    s.producerDone a s.nRetired = true := by
  cases hwriter : s.lastWriter a s.nRetired with
  | none => exact State.producerDone_of_no_writer hwriter
  | some i =>
    have hretired := (State.lastWriter_spec hwriter).1
    have hi : i < s.progLen := h.lt_progLen_of_dispatched (hretired.trans_le (Nat.le_add_right _ _))
    rw [State.producerDone_of_writer hwriter]
    exact (h.coherent hi).retired_completed ((h.locates hi).retired_iff.mpr hretired)

/-- The oldest instruction in the ROB waits for no source. -/
theorem State.InProgramOrder.oldest_ready {s : State} (h : s.InProgramOrder) (hcount : s.robCount ≠ 0) :
    readyToExecute (s.record s.nRetired).instr.src1 (s.record s.nRetired).instr.src2 (s.record s.nRetired) = true := by
  obtain ⟨⟨hs, -⟩, hr⟩ := h
  obtain ⟨hsource1, hsource2⟩ := hr.sources (Nat.lt_add_of_pos_right (Nat.pos_of_ne_zero hcount))
  have ready : ∀ {o p b}, s.SourceRenamed s.nRetired o p b → o = none ∨ b = true := by
    intro o p b hsource
    cases o with
    | none => exact .inl rfl
    | some a => exact .inr ((hsource.ready a rfl).trans (hs.producerDone_oldest a))
  exact readyToExecute_eq_true.mpr ⟨ready hsource1, ready hsource2⟩

section Stalled

variable {s : State} (h : s.InProgramOrder) (hstalled : s.Stalled)

include h hstalled

/-- With CQ empty execute would take the head of XQ (R240). -/
theorem State.InProgramOrder.xq_empty_of_stalled (hcq : s.cq = []) : s.xq = [] := by
  obtain ⟨-, hwidth, -, -, -, hroom⟩ := h.1.1.shaped.sizes_pos
  cases hxq : s.xq with
  | nil => rfl
  | cons j rest =>
    have hfull := of_decide_eq_true (cqFull_of_stall (hstalled.present_execute hwidth hxq))
    rw [hcq, List.length_nil] at hfull
    omega

/-- With CQ empty the oldest instruction in the ROB would execute, issue or retire (R230, R240, R280). -/
theorem State.InProgramOrder.rob_empty_of_stalled (hcq : s.cq = []) : s.robCount = 0 := by
  by_contra hcount
  have hs := h.1.1
  obtain ⟨-, hwidth, -, -, hroom, -⟩ := hs.shaped.sizes_pos
  have hxq := h.xq_empty_of_stalled hstalled hcq
  have hdispatched : s.nRetired < s.numDispatched := Nat.lt_add_of_pos_right (Nat.pos_of_ne_zero hcount)
  have hj := hs.lt_progLen_of_dispatched hdispatched
  have hrecord := hs.getElem?_record hj
  have hlocates := hs.locates hj
  obtain ⟨e, he⟩ := hs.exists_head
  have hinst := hs.head_inst hcount he
  have hretire := hstalled.present_retire hwidth hcount he
  rw [hinst] at hretire
  have hcompleted := not_completed_of_stall hrecord hcount hretire
  have hexecuted : (s.record s.nRetired).executed = false := by simpa [hcq, hcompleted] using hlocates.cq_iff
  have hissued : (s.record s.nRetired).issued = false := by simpa [hxq, hexecuted] using hlocates.xq_iff
  obtain ⟨st, hst, hheld⟩ := List.mem_filterMap.mp
    (hs.mem_heldInstrs hj (hlocates.renamed_iff.mpr hdispatched) hexecuted)
  obtain ⟨k, hk⟩ := List.getElem?_of_mem hst
  have hfree : s.xqFull = false := by
    rw [State.xqFull_eq_false, hxq]
    exact hroom
  have hissue := hstalled.present_issue hwidth hfree (Option.bind_eq_some_iff.mpr ⟨st, hk, hheld⟩)
  obtain hfull | hnot | hdone := blocked_of_stall hrecord hissue
  · exact absurd (hfree.symm.trans hfull) (by decide)
  · exact absurd ((h.oldest_ready hcount).symm.trans hnot) (by decide)
  · exact absurd (hissued.symm.trans hdone) (by decide)

end Stalled

/-- With an empty ROB no station is busy (R44). -/
theorem State.Structured.station_idle_of_rob_empty {s : State} (h : s.Structured) (hempty : s.robCount = 0)
    {st : Station} (hst : st ∈ s.rs) : st.busy = false := by
  rw [h.placed.busy_iff st hst, Option.isSome_eq_false_iff, Option.isNone_iff_eq_none,
    Option.eq_none_iff_forall_ne_some]
  intro j hinst
  obtain ⟨k, hk⟩ := List.getElem?_of_mem hst
  have hk' := (List.getElem?_eq_some_iff.mp hk).1
  obtain ⟨hlow, hhigh, -⟩ := h.placed.held k hk' j (by simp [State.stationInst, hk, hinst])
  rw [State.numDispatched, hempty] at hhigh
  omega

/-- With an empty ROB and nothing pending, the registers that are not mapped are free (R350). -/
theorem State.Sound.freeList_length {s : State} (h : s.Sound) (hempty : s.robCount = 0)
    (hpending : s.pendingFree = []) : s.freeList.length + s.cfg.numArch = s.cfg.numPhys := by
  have hlen := h.2.partition.length_eq
  rw [State.registerPlaces, hpending, State.robEntries, hempty] at hlen
  simpa [h.1.shaped.specMap_length] using hlen

/-- With an empty ROB the resources of an instruction of the program are there (R201 to R203, R355). -/
theorem State.Sound.dispatchStation_ne_none {s : State} (h : s.Sound) (hresourced : s.Resourced)
    (hempty : s.robCount = 0) (hpending : s.pendingFree = []) {j : Nat} {r : InstrRecord} (hr : s.recs[j]? = some r) :
    s.dispatchStation r.instr.kind r.instr.dst ≠ none := by
  have hmem := List.mem_of_getElem? hr
  obtain ⟨hsize, -⟩ := h.1.shaped.sizes_pos
  intro hnone
  obtain hfull | hbusy | ⟨hdst, hfree⟩ := State.dispatchStation_eq_none.mp hnone
  · omega
  · obtain ⟨c, hc, hkind⟩ := hresourced.stations r hmem
    obtain ⟨k, hk⟩ := List.getElem?_of_mem hc
    have hlt : k < s.rs.length := h.1.shaped.rs_length ▸ (List.getElem?_eq_some_iff.mp hk).1
    refine State.freeStation_eq_none_iff.mp hbusy k ⟨?_, _, List.getElem?_eq_getElem hlt, ?_⟩
    · rw [State.stationType, hk, Option.map_some, hkind]
    · exact h.1.station_idle_of_rob_empty hempty (List.getElem_mem hlt)
  · have hspare := hresourced.registers ⟨r, hmem, hdst⟩
    have hlen := h.freeList_length hempty hpending
    rw [hfree, List.length_nil] at hlen
    omega

/-- The progress argument of R355: with CQ empty, a stalled block has retired every instruction. -/
theorem State.InProgramOrder.all_retired_of_stalled {s : State} (h : s.InProgramOrder) (hresourced : s.Resourced)
    (hstalled : s.Stalled) (hcq : s.cq = []) (hpending : s.pendingFree = []) : s.nRetired = s.progLen := by
  have hs := h.1.1
  obtain ⟨-, hwidth, hroomFQ, hroomDQ, -, -⟩ := hs.shaped.sizes_pos
  have hempty := h.rob_empty_of_stalled hstalled hcq
  have hdq : s.dq = [] := by
    cases hdq : s.dq with
    | nil => rfl
    | cons j rest =>
      obtain ⟨hj, hfetched⟩ := hs.dq_head hdq
      have hrecord := hs.getElem?_record (hj ▸ hfetched.trans_le hs.placed.fetchPtr_le)
      exact absurd (no_station_of_stall hrecord (hstalled.present_dispatch hwidth hdq))
        (h.1.dispatchStation_ne_none hresourced hempty hpending hrecord)
  have hfq : s.fq = [] := by
    cases hfq : s.fq with
    | nil => rfl
    | cons j rest =>
      have hfull := of_decide_eq_true (dqFull_of_stall (hstalled.present_decode hwidth hfq))
      rw [hdq, List.length_nil] at hfull
      omega
  have hfetched : s.progLen ≤ s.fetchPtr := by
    by_contra hlt
    have hfull := of_decide_eq_true (fqFull_of_stall (hstalled.presentFetched hwidth (Nat.lt_of_not_le hlt)))
    rw [hfq, List.length_nil] at hfull
    omega
  have hfront := congrArg List.length hs.placed.front_order
  have hle := hs.placed.dispatched_le
  have hptr := hs.placed.fetchPtr_le
  rw [hdq, hfq, List.append_nil, List.length_nil, List.length_range'] at hfront
  rw [State.numDispatched, hempty] at hfront hle
  omega

theorem State.Good.inProgramOrder_cycleStart {s : State} (h : s.Good) : (cycleStart s).InProgramOrder :=
  ⟨⟨h.structured.cycleStart, h.conserved.cycleStart⟩, h.renamed.cycleStart⟩

theorem State.Resourced.cycleStart {s : State} (h : s.Resourced) : (cycleStart s).Resourced :=
  ⟨h.watchdog, h.stations, h.registers⟩

/-- Settles O53: a cycle that aborts found the block stalled with CQ empty before every instruction had retired. -/
theorem noAbortWithResources : Obligations.NoAbortWithResources := by
  intro s t h hresourced hs ht haborted
  obtain ⟨-, habort, -, -⟩ := cycleEndsAsWatchdogSays s t hs ht
  obtain ⟨hleft, hquiet, hwatchdog⟩ := habort.mp haborted
  obtain ⟨hstalled, rfl⟩ := cycleStep_stalled h.structured.shaped.idle ((step_of_performsCycle hs).mp ht) hquiet
  rw [cycleEnd_cfg, cycleEnd_cq] at hwatchdog
  rw [cycleEnd_nRetired, cycleEnd_progLen] at hleft
  have hmode := hresourced.cycleStart.watchdog
  have hcq := hwatchdog.resolve_left fun hliteral => absurd (hmode.symm.trans hliteral) (by decide)
  exact hleft (h.inProgramOrder_cycleStart.all_retired_of_stalled hresourced.cycleStart hstalled hcq rfl)

end Sys2Proof.Machine
end

section
/-!
SUPPORT. A run with the resources of R355 ends: each event of the trace takes one of the stages that the instructions
have still to pass, and a cycle without an event brings the head of CQ closer to its deadline.
-/
namespace Sys2Proof.Machine

/-! ## The stages still to pass -/

theorem mem_stages (st : Stage) : st ∈ stages := by cases st <;> decide

/-- The instructions of the program with the stages that they have still to pass. -/
def State.toPass (s : State) : Finset (Nat × Stage) :=
  (Finset.range s.progLen ×ˢ stages.toFinset).filter fun p => (s.record p.1).ts.get p.2 = unset

theorem State.mem_toPass {s : State} {j : Nat} {st : Stage} :
    (j, st) ∈ s.toPass ↔ j < s.progLen ∧ (s.record j).ts.get st = unset := by
  simp [State.toPass, mem_stages]

theorem State.toPass_congr {s t : State} (hlen : t.progLen = s.progLen) (hrecs : t.recs = s.recs) :
    t.toPass = s.toPass := by
  simp only [State.toPass, hlen, State.record_congr hrecs]

/-- Only an instruction of the program advances: outside it no record takes a timestamp. -/
theorem State.AdvancesTo.lt_progLen {s t : State} {st : Stage} {j : Nat} (h : s.AdvancesTo st j t)
    (ht : t.Structured) : j < s.progLen := by
  by_contra hj
  have hout : t.recs.length ≤ j := by
    rw [ht.shaped.recs_length, h.fixed.progLen]
    exact Nat.le_of_not_lt hj
  have hfresh : t.record j = InstrRecord.fresh (.alu none none none) := by
    rw [State.record, List.getD_eq_default _ _ hout]
  have hunset : (t.record j).ts.get st = unset := by
    rw [hfresh]
    cases st <;> rfl
  exact natCast_ne_unset _ (h.get_self.symm.trans hunset)

/-- An advance takes the stage that it passes, and no other. -/
theorem State.AdvancesTo.toPass_eq_erase {s t : State} {st : Stage} {j : Nat} (h : s.AdvancesTo st j t) :
    t.toPass = s.toPass.erase (j, st) := by
  ext ⟨m, st'⟩
  rw [Finset.mem_erase, State.mem_toPass, State.mem_toPass, h.fixed.progLen, ne_eq, Prod.mk.injEq]
  by_cases hself : m = j ∧ st' = st
  · obtain ⟨rfl, rfl⟩ := hself
    simp [h.get_self, natCast_ne_unset]
  · rw [h.get_other fun hm hst => hself ⟨hm, hst⟩]
    simp [hself]

/-- Between `s` and `t` each event of the trace has taken one stage. -/
def State.PassesTo (s t : State) : Prop := t.toPass.card + t.trace.length = s.toPass.card

theorem passesTo_keptByAdvance (s : State) : KeptByAdvance s.PassesTo := by
  intro u st j v _ hv h ha
  have hmem : (j, st) ∈ u.toPass := State.mem_toPass.mpr ⟨ha.lt_progLen hv, ha.was_unset⟩
  have hcard := Finset.card_erase_add_one hmem
  rw [State.PassesTo] at h ⊢
  rw [ha.toPass_eq_erase, ha.trace, List.length_append, List.length_singleton]
  omega

/-- A cycle takes as many stages as it has events (R306). -/
theorem step_passesTo {s t : State} (hs : s.Structured) (hcycle : s.performsCycle) (h : step s = .next t) :
    s.PassesTo t := by
  obtain ⟨u, hu, rfl⟩ := (passesTo_keptByAdvance s).cycle_keeps hs rfl ((step_of_performsCycle hcycle).mp h)
  rwa [State.PassesTo, cycleEnd_trace, State.toPass_congr (cycleEnd_progLen u) (cycleEnd_recs u)]

/-! ## The deadline at the head of CQ -/

/-- The cycles that the head of CQ has still to wait for its deadline (R261). -/
def State.untilDue (s : State) : Nat :=
  s.cq.head?.elim 0 fun j => ((s.record j).ts.execute + (s.record j).lat - s.cycle).toNat

theorem State.untilDue_of_cons {s : State} {j : Nat} {rest : List Nat} (h : s.cq = j :: rest) :
    s.untilDue = ((s.record j).ts.execute + (s.record j).lat - s.cycle).toNat := by
  simp [State.untilDue, h]

/-- The head of CQ of a stalled block is not due, so the next cycle is one nearer to its deadline. -/
theorem State.Stalled.untilDue_lt {s : State} (h : s.Stalled) (hs : s.Structured) (hcq : s.cq ≠ []) :
    { s with cycle := s.cycle + 1 }.untilDue < s.untilDue := by
  obtain ⟨-, hwidth, -⟩ := hs.shaped.sizes_pos
  obtain ⟨j, rest, hcons⟩ := List.exists_cons_of_ne_nil hcq
  have hrecord := hs.getElem?_record (hs.placed.cq_lt j (by simp [hcons]))
  have hearly := not_due_of_stall hrecord (h.present_complete hwidth hcons)
  have hsame : { s with cycle := s.cycle + 1 }.record j = s.record j := State.record_congr rfl j
  rw [State.untilDue_of_cons hcons, State.untilDue_of_cons (s := { s with cycle := s.cycle + 1 }) hcons, hsame]
  push_cast
  omega

/-! ## Every cycle comes closer to the end -/

/-- A cycle that ends RUNNING has not retired every instruction, and its watchdog was quiet (R136 to R138). -/
theorem cycleEnd_running {s : State} (h : (cycleEnd s).status = .running) :
    s.nRetired ≠ s.progLen ∧ ¬s.watchdogFires = true := by
  have hleft : s.nRetired ≠ s.progLen := fun hall => by
    rw [cycleEnd_of_all_retired hall] at h
    cases h
  refine ⟨hleft, fun hfires => ?_⟩
  rw [cycleEnd_of_watchdog hleft hfires] at h
  cases h

/-- A cycle that ends RUNNING took a stage, or brought the head of CQ closer to its deadline (R137). -/
theorem step_closer_of_running {s t : State} (hs : s.Structured) (hcycle : s.performsCycle)
    (h : step s = .next t) (hrunning : t.status = .running) :
    Prod.Lex (· < ·) (· < ·) (t.toPass.card, t.untilDue) (s.toPass.card, s.untilDue) := by
  have hpasses := step_passesTo hs hcycle h
  cases hprogress : t.progress with
  | true =>
    have htrace := List.length_pos_of_ne_nil ((progressExactlyWhenTraced s t hcycle h).mp hprogress)
    rw [State.PassesTo] at hpasses
    exact .left _ _ (by omega)
  | false =>
    obtain ⟨hstalled, rfl⟩ := cycleStep_stalled hs.shaped.idle ((step_of_performsCycle hcycle).mp h) hprogress
    obtain ⟨hleft, hsilent⟩ := cycleEnd_running hrunning
    have hcq : (cycleStart s).cq ≠ [] := fun hcq =>
      hsilent (State.watchdogFires_iff.mpr ⟨hstalled.quiet, .inr hcq⟩)
    have hnearer := hstalled.untilDue_lt hs.cycleStart hcq
    have hsame : (cycleStart s).untilDue = s.untilDue := rfl
    have hcard : (cycleEnd (cycleStart s)).toPass = s.toPass :=
      State.toPass_congr (cycleEnd_progLen _) (cycleEnd_recs _)
    rw [hcard, cycleEnd_of_running hleft hsilent]
    exact .right _ (hsame ▸ hnearer)

/-- A cycle changes neither the configuration nor the instructions, and so keeps the resources (R30). -/
theorem State.Resourced.step {s t : State} (hresourced : s.Resourced) (hcycle : s.performsCycle)
    (h : step s = .next t) : t.Resourced := by
  obtain ⟨-, -, -, hcfg, hinstrs⟩ := stepKeepsProgramAndConfiguration s t hcycle h
  have hold : ∀ r ∈ t.recs, ∃ r' ∈ s.recs, r'.instr = r.instr := fun r hr =>
    List.mem_map.mp (hinstrs ▸ List.mem_map_of_mem hr)
  refine ⟨hcfg ▸ hresourced.watchdog, fun r hr => ?_, fun ⟨r, hr, hdst⟩ => ?_⟩
  · obtain ⟨r', hr', hsame⟩ := hold r hr
    exact hcfg ▸ hsame ▸ hresourced.stations r' hr'
  · obtain ⟨r', hr', hsame⟩ := hold r hr
    exact hcfg ▸ hresourced.registers ⟨r', hr', hsame ▸ hdst⟩

/-- No cycle aborts, and the cycles that end RUNNING come closer to the end, so one of them ends DONE. -/
theorem State.Good.run_ends_done {s : State} (h : s.Good) (hresourced : s.Resourced) (hcycle : s.performsCycle) :
    ∃ k t, State.run k s = .next t ∧ t.status = .done := by
  obtain ⟨t, ht, hgood⟩ := h.step_answers
  cases hstatus : t.status with
  | done => exact ⟨1, t, State.run_succ.mpr ⟨t, ht, rfl⟩, hstatus⟩
  | aborted => exact absurd hstatus (noAbortWithResources s t h hresourced hcycle ht)
  | running =>
    have hcloser := step_closer_of_running h.structured hcycle ht hstatus
    obtain ⟨hadmitted, hrst⟩ := performsCycle_step hcycle ht
    obtain ⟨k, u, hk, hu⟩ := hgood.run_ends_done (hresourced.step hcycle ht) ⟨hadmitted, hrst, hstatus⟩
    exact ⟨k + 1, u, State.run_succ.mpr ⟨t, ht, hk⟩, hu⟩
termination_by (s.toPass.card, s.untilDue)
decreasing_by exact hcloser

/-- Settles O54, by induction on the stages still to pass and then on the wait for the head of CQ. -/
theorem runEndsDone : Obligations.RunEndsDone := fun _ h hresourced hcycle => h.run_ends_done hresourced hcycle

end Sys2Proof.Machine
end
